-- ==== Sys2Proof/Word.lean ====
section
/-! DEFINITION. The plain types of the block: bytes, 16-bit words, register and key numbers
(00_scope.md R8, R14, R15). -/

namespace Sys2Proof

/-- One byte: a general register, a timer, a memory cell (00_scope.md R8). -/
abbrev Byte := BitVec 8

/-- Sixteen bits: an instruction word, I, PC, a return-stack entry (00_scope.md R8). -/
abbrev Word := BitVec 16

/-- The number of a general register, a 4-bit field of an instruction (30_encoding.md R73). -/
abbrev RegIndex := BitVec 4

/-- A CHIP-8 key code, 0x0..0xF (00_scope.md R8, 40_engine.md R101). -/
abbrev KeyCode := BitVec 4

end Sys2Proof
end

