-- ==== Sys2Proof/Syntax.lean ====
section
/-! DEFINITION. The instruction set as syntax: one constructor for each of the 34 rows of the opcode map
(30_encoding.md R80, spec/opcode_table.json), in the table's order, with the fields of R73 at their exact widths. -/

namespace Sys2Proof

/-- The 34 instructions (30_encoding.md R80). X and Y are register numbers, N is 4 bits, NN 8 bits, NNN 12 bits. -/
inductive Instr where
  /-- 00E0, CLS (44_display.md R170). -/
  | cls
  /-- 00EE, RET (41_control.md R113). -/
  | ret
  /-- 1NNN, JP NNN (41_control.md R111). -/
  | jp (nnn : BitVec 12)
  /-- 2NNN, CALL NNN (41_control.md R112). -/
  | call (nnn : BitVec 12)
  /-- 3XNN, SE VX, NN (41_control.md R115). -/
  | seImm (x : RegIndex) (nn : Byte)
  /-- 4XNN, SNE VX, NN (41_control.md R116). -/
  | sneImm (x : RegIndex) (nn : Byte)
  /-- 5XY0, SE VX, VY (41_control.md R117). -/
  | seReg (x y : RegIndex)
  /-- 6XNN, LD VX, NN (42_alu.md R130). -/
  | ldImm (x : RegIndex) (nn : Byte)
  /-- 7XNN, ADD VX, NN (42_alu.md R131). -/
  | addImm (x : RegIndex) (nn : Byte)
  /-- 8XY0, LD VX, VY (42_alu.md R132). -/
  | ldReg (x y : RegIndex)
  /-- 8XY1, OR VX, VY (42_alu.md R133). -/
  | orReg (x y : RegIndex)
  /-- 8XY2, AND VX, VY (42_alu.md R134). -/
  | andReg (x y : RegIndex)
  /-- 8XY3, XOR VX, VY (42_alu.md R135). -/
  | xorReg (x y : RegIndex)
  /-- 8XY4, ADD VX, VY (42_alu.md R136). -/
  | addReg (x y : RegIndex)
  /-- 8XY5, SUB VX, VY (42_alu.md R137). -/
  | sub (x y : RegIndex)
  /-- 8XY6, SHR VX, VY (42_alu.md R138). -/
  | shr (x y : RegIndex)
  /-- 8XY7, SUBN VX, VY (42_alu.md R139). -/
  | subn (x y : RegIndex)
  /-- 8XYE, SHL VX, VY (42_alu.md R140). -/
  | shl (x y : RegIndex)
  /-- 9XY0, SNE VX, VY (41_control.md R118). -/
  | sneReg (x y : RegIndex)
  /-- ANNN, LD I, NNN (43_index_memory.md R150). -/
  | ldI (nnn : BitVec 12)
  /-- BNNN, JP V0, NNN (41_control.md R114). -/
  | jpV0 (nnn : BitVec 12)
  /-- CXNN, RND VX, NN (42_alu.md R141). -/
  | rnd (x : RegIndex) (nn : Byte)
  /-- DXYN, DRW VX, VY, N (44_display.md R171). -/
  | drw (x y : RegIndex) (n : BitVec 4)
  /-- EX9E, SKP VX (45_input_timers.md R180). -/
  | skp (x : RegIndex)
  /-- EXA1, SKNP VX (45_input_timers.md R181). -/
  | sknp (x : RegIndex)
  /-- FX07, LD VX, DT (45_input_timers.md R183). -/
  | ldVxDt (x : RegIndex)
  /-- FX0A, LD VX, K (45_input_timers.md R182). -/
  | ldVxK (x : RegIndex)
  /-- FX15, LD DT, VX (45_input_timers.md R184). -/
  | ldDtVx (x : RegIndex)
  /-- FX18, LD ST, VX (45_input_timers.md R185). -/
  | ldStVx (x : RegIndex)
  /-- FX1E, ADD I, VX (43_index_memory.md R151). -/
  | addI (x : RegIndex)
  /-- FX29, LD F, VX (43_index_memory.md R152). -/
  | ldF (x : RegIndex)
  /-- FX33, LD B, VX (43_index_memory.md R153). -/
  | ldB (x : RegIndex)
  /-- FX55, LD [I], VX (43_index_memory.md R154). -/
  | storeRegs (x : RegIndex)
  /-- FX65, LD VX, [I] (43_index_memory.md R155). -/
  | loadRegs (x : RegIndex)
deriving DecidableEq, Repr

end Sys2Proof
end

