-- ==== Sys2Proof/Decode.lean ====
section
/-! DEFINITION. The decoder, total on any bytes and rejecting by name (30_encoding.md R70 to R82), and after it the encoder
written from the same formats (R72). The byte order of an instruction word is decided here once (20_memory.md R50). -/

namespace Sys2Proof

/-- Why bytes are no instruction. -/
inductive DecodeError where
  /-- The word matches no row of the opcode map: `Unknown` of 30_encoding.md R81, R82. -/
  | unknown (w : Word)
  /-- Fewer than two bytes were given: every instruction is exactly two bytes (30_encoding.md R70). The engine's fetch
  never gives fewer (40_engine.md R91); DESIGN CHOICE, safe, log 8. -/
  | truncated
deriving DecidableEq, Repr

/-- w[15:12] (00_scope.md R18). -/
def fieldOp (w : Word) : BitVec 4 := w.extractLsb' 12 4

/-- X = w[11:8] (00_scope.md R18). -/
def fieldX (w : Word) : RegIndex := w.extractLsb' 8 4

/-- Y = w[7:4] (00_scope.md R18). -/
def fieldY (w : Word) : RegIndex := w.extractLsb' 4 4

/-- N = w[3:0] (00_scope.md R18). -/
def fieldN (w : Word) : BitVec 4 := w.extractLsb' 0 4

/-- NN = w[7:0] (00_scope.md R18). -/
def fieldNN (w : Word) : Byte := w.extractLsb' 0 8

/-- NNN = w[11:0] (00_scope.md R18). -/
def fieldNNN (w : Word) : BitVec 12 := w.extractLsb' 0 12

/-- The word of two consecutive bytes: the byte at the lower address is the high byte (20_memory.md R50). -/
def wordOfBytes (atLower atHigher : Byte) : Word := atLower ++ atHigher

/-- The two bytes of a word in the order memory holds them, the high byte at the lower address (20_memory.md R50). -/
def bytesOfWord (w : Word) : List Byte := [w.extractLsb' 8 8, w.extractLsb' 0 8]

/-- Family 0x0: only the exact words 0x00E0 and 0x00EE (30_encoding.md R71, R81). -/
def decodeFixed (w : Word) : Except DecodeError Instr :=
  if w = 0x00E0 then .ok .cls
  else if w = 0x00EE then .ok .ret
  else .error (.unknown w)

/-- Family 0x8 dispatches on the low nibble (30_encoding.md R71, R81). -/
def decodeAlu (w : Word) : Except DecodeError Instr :=
  let x := fieldX w
  let y := fieldY w
  let n := fieldN w
  if n = 0x0 then .ok (.ldReg x y)
  else if n = 0x1 then .ok (.orReg x y)
  else if n = 0x2 then .ok (.andReg x y)
  else if n = 0x3 then .ok (.xorReg x y)
  else if n = 0x4 then .ok (.addReg x y)
  else if n = 0x5 then .ok (.sub x y)
  else if n = 0x6 then .ok (.shr x y)
  else if n = 0x7 then .ok (.subn x y)
  else if n = 0xE then .ok (.shl x y)
  else .error (.unknown w)

/-- Family 0xE dispatches on the low byte (30_encoding.md R71, R81). -/
def decodeKey (w : Word) : Except DecodeError Instr :=
  if fieldNN w = 0x9E then .ok (.skp (fieldX w))
  else if fieldNN w = 0xA1 then .ok (.sknp (fieldX w))
  else .error (.unknown w)

/-- Family 0xF dispatches on the low byte (30_encoding.md R71, R81). -/
def decodeMisc (w : Word) : Except DecodeError Instr :=
  let x := fieldX w
  let nn := fieldNN w
  if nn = 0x07 then .ok (.ldVxDt x)
  else if nn = 0x0A then .ok (.ldVxK x)
  else if nn = 0x15 then .ok (.ldDtVx x)
  else if nn = 0x18 then .ok (.ldStVx x)
  else if nn = 0x1E then .ok (.addI x)
  else if nn = 0x29 then .ok (.ldF x)
  else if nn = 0x33 then .ok (.ldB x)
  else if nn = 0x55 then .ok (.storeRegs x)
  else if nn = 0x65 then .ok (.loadRegs x)
  else .error (.unknown w)

/-- decode(w) of 30_encoding.md R81. It reads nothing but the word (40_engine.md R92). -/
def decodeWord (w : Word) : Except DecodeError Instr :=
  let op := fieldOp w
  if op = 0x0 then decodeFixed w
  else if op = 0x1 then .ok (.jp (fieldNNN w))
  else if op = 0x2 then .ok (.call (fieldNNN w))
  else if op = 0x3 then .ok (.seImm (fieldX w) (fieldNN w))
  else if op = 0x4 then .ok (.sneImm (fieldX w) (fieldNN w))
  else if op = 0x5 then if fieldN w = 0 then .ok (.seReg (fieldX w) (fieldY w)) else .error (.unknown w)
  else if op = 0x6 then .ok (.ldImm (fieldX w) (fieldNN w))
  else if op = 0x7 then .ok (.addImm (fieldX w) (fieldNN w))
  else if op = 0x8 then decodeAlu w
  else if op = 0x9 then if fieldN w = 0 then .ok (.sneReg (fieldX w) (fieldY w)) else .error (.unknown w)
  else if op = 0xA then .ok (.ldI (fieldNNN w))
  else if op = 0xB then .ok (.jpV0 (fieldNNN w))
  else if op = 0xC then .ok (.rnd (fieldX w) (fieldNN w))
  else if op = 0xD then .ok (.drw (fieldX w) (fieldY w) (fieldN w))
  else if op = 0xE then decodeKey w
  else decodeMisc w

/-- Decode the instruction at the head of a byte sequence and give the bytes after it: every instruction is two bytes,
big-endian (30_encoding.md R70). -/
def decodeBytes : List Byte → Except DecodeError (Instr × List Byte)
  | b₀ :: b₁ :: rest =>
    match decodeWord (wordOfBytes b₀ b₁) with
    | .ok i => .ok (i, rest)
    | .error e => .error e
  | _ => .error .truncated

/-- Format NNN (30_encoding.md R72). -/
def encodeNNN (op : BitVec 4) (nnn : BitVec 12) : Word := op ++ nnn

/-- Format XNN (30_encoding.md R72). -/
def encodeXNN (op : BitVec 4) (x : RegIndex) (nn : Byte) : Word := wordOfBytes (op ++ x) nn

/-- Formats XYS and XYN (30_encoding.md R72). -/
def encodeXYN (op : BitVec 4) (x y : RegIndex) (n : BitVec 4) : Word := wordOfBytes (op ++ x) (y ++ n)

/-- Format XS8 (30_encoding.md R72). -/
def encodeXS8 (op : BitVec 4) (x : RegIndex) (sub8 : Byte) : Word := wordOfBytes (op ++ x) sub8

/-- The word of each instruction, from the formats of 30_encoding.md R72 and the patterns of R80. -/
def encode : Instr → Word
  | .cls => 0x00E0
  | .ret => 0x00EE
  | .jp nnn => encodeNNN 0x1 nnn
  | .call nnn => encodeNNN 0x2 nnn
  | .seImm x nn => encodeXNN 0x3 x nn
  | .sneImm x nn => encodeXNN 0x4 x nn
  | .seReg x y => encodeXYN 0x5 x y 0x0
  | .ldImm x nn => encodeXNN 0x6 x nn
  | .addImm x nn => encodeXNN 0x7 x nn
  | .ldReg x y => encodeXYN 0x8 x y 0x0
  | .orReg x y => encodeXYN 0x8 x y 0x1
  | .andReg x y => encodeXYN 0x8 x y 0x2
  | .xorReg x y => encodeXYN 0x8 x y 0x3
  | .addReg x y => encodeXYN 0x8 x y 0x4
  | .sub x y => encodeXYN 0x8 x y 0x5
  | .shr x y => encodeXYN 0x8 x y 0x6
  | .subn x y => encodeXYN 0x8 x y 0x7
  | .shl x y => encodeXYN 0x8 x y 0xE
  | .sneReg x y => encodeXYN 0x9 x y 0x0
  | .ldI nnn => encodeNNN 0xA nnn
  | .jpV0 nnn => encodeNNN 0xB nnn
  | .rnd x nn => encodeXNN 0xC x nn
  | .drw x y n => encodeXYN 0xD x y n
  | .skp x => encodeXS8 0xE x 0x9E
  | .sknp x => encodeXS8 0xE x 0xA1
  | .ldVxDt x => encodeXS8 0xF x 0x07
  | .ldVxK x => encodeXS8 0xF x 0x0A
  | .ldDtVx x => encodeXS8 0xF x 0x15
  | .ldStVx x => encodeXS8 0xF x 0x18
  | .addI x => encodeXS8 0xF x 0x1E
  | .ldF x => encodeXS8 0xF x 0x29
  | .ldB x => encodeXS8 0xF x 0x33
  | .storeRegs x => encodeXS8 0xF x 0x55
  | .loadRegs x => encodeXS8 0xF x 0x65

/-- The low nbits bits of a table word as the one 16-bit word an instruction has; the bits above are 0. Bit 0 of the table's
numbering is the least significant bit of the word (00_scope.md R14). -/
def tableWord (nbits w : Nat) : Word := BitVec.ofNat 16 (w % 2 ^ nbits)

/-- What the decoder reads from a table word laid out as memory holds it, high byte first (20_memory.md R50). -/
def decodeTableWord (nbits w : Nat) : Option Instr :=
  match decodeBytes (bytesOfWord (tableWord nbits w)) with
  | .ok (i, _) => some i
  | .error _ => none

end Sys2Proof
end

