-- ==== Sys2Proof/Config.lean ====
section
/-! DEFINITION. What is fixed for the block: its sizes, the quirk record, the FONT parameter's type, and the
one free value, the random byte (00_scope.md R8 to R11). -/

namespace Sys2Proof

/-- The five quirk bits (00_scope.md R9). The host chooses them at Reset and nothing else changes them. -/
structure Quirks where
  /-- 8XY6 and 8XYE take their source from VY instead of VX (42_alu.md R138, R140). -/
  shiftUsesVy : Bool
  /-- 8XY1, 8XY2 and 8XY3 write VF <- 0 (42_alu.md R133 to R135). -/
  logicOpsResetVf : Bool
  /-- FX1E writes VF (43_index_memory.md R151). -/
  addToIOverflowSetsVf : Bool
  /-- FX55 and FX65 advance I (43_index_memory.md R154, R155). -/
  loadStoreIncrementsI : Bool
  /-- BNNN adds VX, X = NNN[11:8], instead of V0 (41_control.md R114). -/
  jumpWithOffsetUsesVx : Bool
deriving DecidableEq, Repr

/-- The FONT parameter: 80 bytes, glyph k at bytes 5k..5k+4 (00_scope.md R10). -/
abbrev Font := Vector Byte 80

namespace Config

/-- Memory is 4096 bytes, addresses 0x000..0xFFF (00_scope.md R8, 20_memory.md R55). -/
abbrev memorySize : Nat := 4096

/-- The font occupies 0x000..0x04F (20_memory.md R55). -/
abbrev fontSize : Nat := 80

/-- The program load address and the reset value of PC (00_scope.md R8, 70_reset_and_hazards.md R230). -/
abbrev programBase : Nat := 0x200

/-- The longest program LoadProgram takes (00_scope.md R8, 20_memory.md R58). -/
abbrev maxProgramLength : Nat := 0xE00

/-- FREE VALUE, safe, log 3: the bytes the environment puts on the `rnd` input, one after another. It has no body, so
nothing about them can be assumed (00_scope.md R11, 93_implementation_defined.md U5). -/
opaque freeRnd : Nat → Byte

end Config

end Sys2Proof
end

