-- ==== Sys2Proof/Machine/Font.lean ====
section
/-! DEFINITION. The two parameters State.reset is taken at: the default FONT table and the quirks. -/

namespace Sys2Proof

namespace Config

/-- The default FONT (70_reset_and_hazards.md R231). PRESUMED, unsafe, log 1: the spec marks these bytes as general
knowledge, not as its source's. State holds the FONT as a parameter, so only State.reset rests on this table. -/
def defaultFont : Font :=
  #v[0xF0, 0x90, 0x90, 0x90, 0xF0,  0x20, 0x60, 0x20, 0x20, 0x70,
     0xF0, 0x10, 0xF0, 0x80, 0xF0,  0xF0, 0x10, 0xF0, 0x10, 0xF0,
     0x90, 0x90, 0xF0, 0x10, 0x10,  0xF0, 0x80, 0xF0, 0x10, 0xF0,
     0xF0, 0x80, 0xF0, 0x90, 0xF0,  0xF0, 0x10, 0x20, 0x40, 0x40,
     0xF0, 0x90, 0xF0, 0x90, 0xF0,  0xF0, 0x90, 0xF0, 0x10, 0xF0,
     0xF0, 0x90, 0xF0, 0x90, 0x90,  0xE0, 0x90, 0xE0, 0x90, 0xE0,
     0xF0, 0x80, 0x80, 0x80, 0xF0,  0xE0, 0x90, 0x90, 0x90, 0xE0,
     0xF0, 0x80, 0xF0, 0x80, 0xF0,  0xF0, 0x80, 0xF0, 0x80, 0x80]

/-- The quirks State.reset is taken at. logicOpsResetVf = true and jumpWithOffsetUsesVx = false are the spec's
defaults (00_scope.md R9). DESIGN CHOICE, unsafe, log 2: the other three have no default in the spec and are false here,
the convention of 95_test_vectors.md. -/
def resetQuirks : Quirks where
  shiftUsesVy := false
  logicOpsResetVf := true
  addToIOverflowSetsVf := false
  loadStoreIncrementsI := false
  jumpWithOffsetUsesVx := false

end Config

end Sys2Proof
end

