-- ==== Sys2Proof/Machine/State.lean ====
section
/-! DEFINITION. The architectural state as plain data (10_state.md R20, R21), the ways a step could stop, and the state
after reset (70_reset_and_hazards.md R230). -/

namespace Sys2Proof.Machine

/-- Memory: 4096 bytes (10_state.md R35). `cells` lists, by rising address, the bytes that differ from what Reset puts there,
and `font` is the FONT parameter Reset loads at 0x000..0x04F (00_scope.md R10). `Memory.background` (Machine/Ops.lean) says
what an unlisted address reads as, `Memory.wf` says the canonical form. -/
structure Memory where
  font : Font
  cells : List Host.Cell
deriving DecidableEq, Repr

/-- The framebuffer: 32 rows of 64 one-bit cells, row first (10_state.md R31). -/
abbrev Framebuffer := Vector (Vector Bool 64) 32

/-- The fault register: None or one of the four kinds of fault (60_exceptions.md R200, R202). This is state of the block. A
Step that faults ENDS IN A NEXT STATE that holds the kind (R203); it does not stop the model. -/
inductive FaultCode where
  | none
  | stackOverflow
  | stackUnderflow
  | unknownOpcode
  | memoryAddressOutOfRange
deriving DecidableEq, Repr

/-- The architectural state: one field for each row of 10_state.md R20, and after them the model's own view of the `rnd`
input of a Step, which R21 makes no state of the block. -/
structure State where
  /-- 4096 bytes (10_state.md R35). -/
  memory : Memory
  /-- V0..VF (10_state.md R22). -/
  v : Vector Byte 16
  /-- The address register I (10_state.md R24). -/
  i : Word
  /-- The program counter (10_state.md R26). -/
  pc : Word
  /-- The number of return-stack entries in use, 0..16 (10_state.md R29). -/
  sp : Fin 17
  /-- The return stack (10_state.md R28). -/
  stack : Vector Word 16
  /-- The delay timer (10_state.md R30). -/
  dt : Byte
  /-- The sound timer (10_state.md R30). -/
  st : Byte
  /-- The framebuffer (10_state.md R31). -/
  fb : Framebuffer
  /-- The input latch, true when pressed (10_state.md R32). -/
  key : Vector Bool 16
  /-- The dirty flag (10_state.md R33). -/
  drawFlag : Bool
  /-- The quirk bits (00_scope.md R9, 10_state.md R34). -/
  quirks : Quirks
  /-- The fault register (10_state.md R34, 60_exceptions.md R202). -/
  fault : FaultCode
  /-- THE MODEL'S OWN: the byte on the `rnd` input of the next Step (00_scope.md R11). Log 3. -/
  rnd : Byte
  /-- THE MODEL'S OWN: how many free bytes have been drawn (log 3). -/
  draws : Nat
deriving DecidableEq, Repr

/-- Why the machine itself would stop. NO constructor, and so nothing raises one: every fault the spec describes is a next
state that records its kind (60_exceptions.md R203), every Step finishes (40_engine.md R99), and the block never halts by
itself (70_reset_and_hazards.md R237). Log 4. -/
inductive Fault
deriving DecidableEq, Repr

/-- Why an instruction would have no meaning. -/
inductive Refusal where
  /-- Raised by an arm of `exec` for an instruction that has no meaning yet (safe: the run stops). No arm raises it: all 34
  instructions have their meaning. -/
  | notModelled (mnemonic : String)
deriving DecidableEq, Repr

/-- The state Reset(q) leaves, for a block whose FONT is `font`, with the model's own two fields given
(70_reset_and_hazards.md R230). Memory lists no cell: every byte has its reset content. -/
def State.powerOn (font : Font) (q : Quirks) (rnd : Byte) (draws : Nat) : State where
  memory := { font := font, cells := [] }
  v := Vector.replicate 16 0
  i := 0
  pc := 0x200
  sp := 0
  stack := Vector.replicate 16 0
  dt := 0
  st := 0
  fb := Vector.replicate 32 (Vector.replicate 64 false)
  key := Vector.replicate 16 false
  drawFlag := true
  quirks := q
  fault := .none
  rnd := rnd
  draws := draws

/-- The machine right after reset: R230 with the default FONT (log 1), the quirks of `Config.resetQuirks` (log 2) and the
first free byte on the `rnd` input (log 3). -/
def State.reset : State := State.powerOn Config.defaultFont Config.resetQuirks (Config.freeRnd 0) 1

end Sys2Proof.Machine
end

