-- ==== Sys2Proof/Machine/Ops.lean ====
section
/-! DEFINITION. The named operations over memory, registers, PC, the return stack, the framebuffer and the latch, the entry of a
fault, and the fetch. Meanings are written over these. -/

namespace Sys2Proof.Machine

/-! ### Memory (20_memory.md) -/

/-- What an address that is not listed reads as: its reset content, the FONT byte at 0x000..0x04F and 0 elsewhere
(70_reset_and_hazards.md R230). -/
def Memory.background (m : Memory) (a : Nat) : Byte := if h : a < 80 then m.font[a] else 0

/-- The byte a cell list gives for an address, if it lists it. -/
def Memory.lookup : List Host.Cell → Nat → Option Byte
  | [], _ => none
  | c :: rest, a => if c.1 = a then some c.2 else Memory.lookup rest a

/-- MemRead(addr, 1) (00_scope.md R16). Callers check the range first, so `a` is below 4096 (R53). -/
def Memory.read (m : Memory) (a : Nat) : Byte := (Memory.lookup m.cells a).getD (m.background a)

/-- Put a cell into a list at its place by address. -/
def Memory.insertCell (a : Nat) (b : Byte) : List Host.Cell → List Host.Cell
  | [] => [(a, b)]
  | c :: rest => if a < c.1 then (a, b) :: c :: rest else c :: Memory.insertCell a b rest

/-- MemWrite(addr, 1, b) (00_scope.md R16). A byte equal to its reset content is not listed, so equal memories are equal
data. -/
def Memory.write (m : Memory) (a : Nat) (b : Byte) : Memory :=
  let kept := m.cells.filter (fun c => c.1 != a)
  { m with cells := if b = m.background a then kept else Memory.insertCell a b kept }

/-- The canonical form: addresses strictly rising and inside the address space, and no cell equal to its reset content. -/
abbrev Memory.wf (m : Memory) : Prop :=
  m.cells.Pairwise (fun c d => c.1 < d.1) ∧ ∀ c ∈ m.cells, c.1 < Config.memorySize ∧ c.2 ≠ m.background c.1

/-- The range check of 20_memory.md R53: no address of base .. base + len - 1 is above 0xFFF. An empty set passes. -/
def inRange (base len : Nat) : Bool := len == 0 || base + len ≤ Config.memorySize

/-- Bytes from `a` upward, one MemRead each. -/
def Memory.readBytes (m : Memory) (a : Nat) : Nat → List Byte
  | 0 => []
  | n + 1 => m.read a :: m.readBytes (a + 1) n

/-- Store bytes from `a` upward, one MemWrite each, in order. -/
def Memory.writeBytes (m : Memory) (a : Nat) : List Byte → Memory
  | [] => m
  | b :: bs => (m.write a b).writeBytes (a + 1) bs

/-! ### General registers, I, PC and timers (10_state.md) -/

/-- V[x] (00_scope.md R15). -/
def State.reg (s : State) (x : RegIndex) : Byte := s.v[x.toNat]'x.isLt

/-- V[x] <- b (00_scope.md R15). -/
def State.setReg (s : State) (x : RegIndex) (b : Byte) : State := { s with v := s.v.set x.toNat b x.isLt }

/-- I <- a (10_state.md R24). Nothing is checked. -/
def State.setI (s : State) (a : Word) : State := { s with i := a }

/-- PC <- target (00_scope.md R15). Nothing is checked (41_control.md R110). -/
def State.setPc (s : State) (a : Word) : State := { s with pc := a }

/-- PC <- (PC + 2) mod 2^16, the default (40_engine.md R96). -/
def State.advance (s : State) : State := s.setPc (s.pc + 2)

/-- The two next PCs of a skip: PC + 4 when the condition holds, PC + 2 otherwise, mod 2^16 (40_engine.md R96). -/
def State.skipIf (s : State) (c : Bool) : State := s.setPc (if c then s.pc + 4 else s.pc + 2)

/-- DT <- b. -/
def State.setDt (s : State) (b : Byte) : State := { s with dt := b }

/-- ST <- b. -/
def State.setSt (s : State) (b : Byte) : State := { s with st := b }

/-- memory <- m. -/
def State.setMemory (s : State) (m : Memory) : State := { s with memory := m }

/-- V[0] .. V[count - 1] (43_index_memory.md R154, with count = X + 1). -/
def State.regBytes (s : State) (count : Nat) : List Byte := s.v.toList.take count

/-- Write bytes to V[k], V[k + 1], … in order (43_index_memory.md R155). -/
def loadVector (v : Vector Byte 16) (k : Nat) : List Byte → Vector Byte 16
  | [] => v
  | b :: bs => loadVector (v.setIfInBounds k b) (k + 1) bs

/-- Write bytes to V[0], V[1], … in order (43_index_memory.md R155). -/
def State.setRegBytes (s : State) (bytes : List Byte) : State := { s with v := loadVector s.v 0 bytes }

/-- The next byte comes onto the `rnd` input: a free value (00_scope.md R11, log 3). -/
def State.nextDraw (s : State) : State := { s with rnd := Config.freeRnd s.draws, draws := s.draws + 1 }

/-! ### The return stack (10_state.md R28, R29) -/

/-- stack[SP] <- a, then SP <- SP + 1; none when 16 entries are in use. -/
def State.push (s : State) (a : Word) : Option State :=
  if h : s.sp.val < 16 then
    some { s with stack := s.stack.set s.sp.val a h, sp := ⟨s.sp.val + 1, Nat.succ_lt_succ h⟩ }
  else none

/-- SP <- SP - 1 and the entry there, which stays as it is; none when the stack is empty. -/
def State.pop (s : State) : Option (Word × State) :=
  if h : 0 < s.sp.val then
    some (s.stack[s.sp.val - 1]'(by omega), { s with sp := ⟨s.sp.val - 1, by omega⟩ })
  else none

/-! ### The framebuffer and the draw flag (44_display.md) -/

/-- fb[y][x] (00_scope.md R15). -/
def Framebuffer.pixel (fb : Framebuffer) (y : Fin 32) (x : Fin 64) : Bool := fb[y][x]

/-- fb[y][x] <- fb[y][x] ^ 1 (44_display.md R171). -/
def Framebuffer.toggle (fb : Framebuffer) (y : Fin 32) (x : Fin 64) : Framebuffer :=
  fb.set y (fb[y].set x (!fb[y][x]))

/-- Turn over pixels one after another, and whether one of them went from 1 to 0: the loop of DXYN (44_display.md R171). -/
def togglePixels (fb : Framebuffer) (collision : Bool) : List (Fin 32 × Fin 64) → Framebuffer × Bool
  | [] => (fb, collision)
  | p :: ps => togglePixels (fb.toggle p.1 p.2) (collision || fb.pixel p.1 p.2) ps

/-- Every cell 0 (44_display.md R170). -/
def Framebuffer.clear : Framebuffer := Vector.replicate 32 (Vector.replicate 64 false)

/-- The framebuffer and drawFlag <- 1, which 00E0 and DXYN always write together (10_state.md R33). -/
def State.setDisplay (s : State) (fb : Framebuffer) : State := { s with fb := fb, drawFlag := true }

/-! ### The input latch (40_engine.md R100, R101) -/

/-- key[k] = 1 (00_scope.md R15). -/
def State.keyPressed (s : State) (k : KeyCode) : Bool := s.key[k.toNat]'k.isLt

/-- The 16 key codes, lowest first. -/
def keyCodes : List KeyCode := (List.range 16).map (BitVec.ofNat 4)

/-- The smallest k with key[k] = 1, if any key is pressed (45_input_timers.md R182). -/
def State.lowestKey (s : State) : Option KeyCode := keyCodes.find? s.keyPressed

/-! ### Faults (60_exceptions.md) -/

/-- TAKING A FAULT, the one shared operation (60_exceptions.md R203): `fault` records the kind and everything else, PC too, keeps
its value. It is always applied to the state at the start of the Step, so every write of the Step is discarded (40_engine.md
R95). There is no vector and nothing else is saved.

There is NO return from a fault: no instruction has that effect (60_exceptions.md R207), and only Reset clears the register
(`resetBlock`, Machine/HostOps.lean). -/
def raiseFault (kind : FaultCode) (s : State) : Host.Outcome State Fault Refusal := .next { s with fault := kind }

/-- Whether the engine is halted: a fault is recorded (60_exceptions.md R204). -/
def State.halted (s : State) : Bool := s.fault != .none

/-! ### Fetch (40_engine.md R91) -/

/-- The word at PC, big-endian, or none when PC > 0xFFE. -/
def State.fetch (s : State) : Option Word :=
  if inRange s.pc.toNat 2 then some (wordOfBytes (s.memory.read s.pc.toNat) (s.memory.read (s.pc.toNat + 1))) else none

/-- Store an instruction word where the next Step fetches: at PC; an out-of-range PC, from which nothing can be fetched, goes
back to 0x200, and a recorded fault, under which no Step fetches, is cleared. Log 7. -/
def State.placeWord (s : State) (w : Word) : State :=
  let pc : Word := if inRange s.pc.toNat 2 then s.pc else 0x200
  { s with memory := s.memory.writeBytes pc.toNat (bytesOfWord w), pc := pc, fault := .none }

end Sys2Proof.Machine
end

