-- ==== Sys2Proof/Machine/Operands.lean ====
section
/-! DEFINITION. Every operand form the instructions use: immediates, register operands chosen by a quirk, the low nibble of a
register, the decimal digits, the bytes and pixels of a sprite. -/

namespace Sys2Proof.Machine

/-- zext_16(NNN) (30_encoding.md R74). -/
def zextAddr (nnn : BitVec 12) : Word := nnn.setWidth 16

/-- zext_16 of a byte, as BNNN and FX1E add it (41_control.md R114, 43_index_memory.md R151). -/
def zextByte (b : Byte) : Word := b.setWidth 16

/-- The low nibble of a byte: the key EX9E and EXA1 test and the glyph FX29 names (45_input_timers.md R180, 43_index_memory.md
R152). -/
def lowNibble (b : Byte) : BitVec 4 := b.extractLsb' 0 4

/-- The register BNNN adds: V0, or VX with X = NNN[11:8] under `jumpWithOffsetUsesVx` (41_control.md R114). -/
def jumpRegister (s : State) (nnn : BitVec 12) : RegIndex :=
  if s.quirks.jumpWithOffsetUsesVx then nnn.extractLsb' 8 4 else 0

/-- The source of 8XY6 and 8XYE: VY under `shiftUsesVy`, VX otherwise (42_alu.md R138, R140). -/
def shiftSource (s : State) (x y : RegIndex) : Byte := if s.quirks.shiftUsesVy then s.reg y else s.reg x

/-- The address of the glyph a byte names: 5 times its low nibble (43_index_memory.md R152). -/
def glyphAddress (a : Byte) : Word := (lowNibble a).setWidth 16 * 5

/-- The hundreds, tens and ones digit of a byte (43_index_memory.md R153). -/
def bcdDigits (a : Byte) : List Byte := [a / 100, a / 10 % 10, a % 10]

/-- How many registers FX55 and FX65 move: X + 1 (43_index_memory.md R154). -/
def moveCount (x : RegIndex) : Nat := x.toNat + 1

/-- I after FX55 and FX65: (I + X + 1) mod 2^16 under `loadStoreIncrementsI`, unchanged otherwise (43_index_memory.md R154,
R155). -/
def indexAfterMove (s : State) (x : RegIndex) : Word :=
  if s.quirks.loadStoreIncrementsI then s.i + x.setWidth 16 + 1 else s.i

/-- The pixel of column c in row r of a sprite drawn at (x0, y0), each coordinate wrapped (44_display.md R171). -/
def spritePixel (x0 y0 r c : Nat) : Fin 32 × Fin 64 :=
  (⟨(y0 + r) % 32, Nat.mod_lt _ (by decide)⟩, ⟨(x0 + c) % 64, Nat.mod_lt _ (by decide)⟩)

/-- The columns of a sprite byte whose bit is 1, bit 7 the leftmost column (44_display.md R171). -/
def litColumns (row : Byte) : List Nat := (List.range 8).filter (fun c => row.getLsbD (7 - c))

/-- The pixels a sprite of n rows at address `a` turns over, in the order DXYN visits them (44_display.md R171). -/
def spritePixels (m : Memory) (a n x0 y0 : Nat) : List (Fin 32 × Fin 64) :=
  (List.range n).flatMap (fun r => (litColumns (m.read (a + r))).map (spritePixel x0 y0 r))

/-- The pixels DXYN turns over: x0 = VX mod 64, y0 = VY mod 32, N rows from I (44_display.md R171). -/
def drawPixels (s : State) (x y : RegIndex) (n : BitVec 4) : List (Fin 32 × Fin 64) :=
  spritePixels s.memory s.i.toNat n.toNat ((s.reg x).toNat % 64) ((s.reg y).toNat % 32)

end Sys2Proof.Machine
end

