-- ==== Sys2Proof/Machine/Flags.lean ====
section
/-! DEFINITION. Every flag computation and the write of the one flag register, VF (10_state.md R23). -/

namespace Sys2Proof.Machine

/-- A flag as the byte VF holds: 1 or 0. -/
def flagByte (f : Bool) : Byte := if f then 1 else 0

/-- VF <- flag; the last write of every instruction that has a flag (40_engine.md R97). -/
def State.setFlag (s : State) (f : Bool) : State := s.setReg 0xF (flagByte f)

/-- VF <- flag only under a quirk; otherwise VF is not written (10_state.md R23). -/
def State.setFlagIf (s : State) (quirk f : Bool) : State := if quirk then s.setFlag f else s

/-- 8XY4: a + b > 255 (42_alu.md R136). -/
def carryFlag (a b : Byte) : Bool := 255 < a.toNat + b.toNat

/-- 8XY5 with (VX, VY), 8XY7 with (VY, VX): 1 iff the first is not below the second (42_alu.md R137, R139). -/
def noBorrowFlag (a b : Byte) : Bool := b.toNat ≤ a.toNat

/-- 8XY6: bit 0 of the source (42_alu.md R138). -/
def shiftedOutLow (src : Byte) : Bool := src.getLsbD 0

/-- 8XYE: bit 7 of the source (42_alu.md R140). -/
def shiftedOutHigh (src : Byte) : Bool := src.getLsbD 7

/-- FX1E: I + VX > 0xFFF, the exact sum (43_index_memory.md R151). -/
def indexOverflow (i : Word) (a : Byte) : Bool := 0xFFF < i.toNat + a.toNat

end Sys2Proof.Machine
end

