-- ==== Sys2Proof/Machine/Alu.lean ====
section
/-! DEFINITION. Meanings of the register loads and the ALU group (42_alu.md R130 to R142). Operands are read from the state
at the start of the Step, and the flag is written last (40_engine.md R97). -/

namespace Sys2Proof.Machine

/-- V[X] <- result, VF <- flag last, PC + 2: the shape of 8XY4 to 8XYE (42_alu.md R136 to R140). -/
def writeResultAndFlag (x : RegIndex) (result : Byte) (flag : Bool) (s : State) : State :=
  ((s.setReg x result).setFlag flag).advance

/-- V[X] <- result, VF <- 0 last under `logicOpsResetVf`, PC + 2: the shape of 8XY1 to 8XY3 (42_alu.md R133 to R135). -/
def writeLogicResult (x : RegIndex) (result : Byte) (s : State) : State :=
  ((s.setReg x result).setFlagIf s.quirks.logicOpsResetVf false).advance

/-- 6XNN, LD VX, NN (42_alu.md R130). -/
def execLdImm (x : RegIndex) (nn : Byte) (s : State) : Host.Outcome State Fault Refusal :=
  .next (s.setReg x nn).advance

/-- 7XNN, ADD VX, NN: the sum mod 2^8, no flag (42_alu.md R131). -/
def execAddImm (x : RegIndex) (nn : Byte) (s : State) : Host.Outcome State Fault Refusal :=
  .next (s.setReg x (s.reg x + nn)).advance

/-- 8XY0, LD VX, VY (42_alu.md R132). -/
def execLdReg (x y : RegIndex) (s : State) : Host.Outcome State Fault Refusal :=
  .next (s.setReg x (s.reg y)).advance

/-- 8XY1, OR VX, VY (42_alu.md R133). -/
def execOr (x y : RegIndex) (s : State) : Host.Outcome State Fault Refusal :=
  .next (writeLogicResult x (s.reg x ||| s.reg y) s)

/-- 8XY2, AND VX, VY (42_alu.md R134). -/
def execAnd (x y : RegIndex) (s : State) : Host.Outcome State Fault Refusal :=
  .next (writeLogicResult x (s.reg x &&& s.reg y) s)

/-- 8XY3, XOR VX, VY (42_alu.md R135). -/
def execXor (x y : RegIndex) (s : State) : Host.Outcome State Fault Refusal :=
  .next (writeLogicResult x (s.reg x ^^^ s.reg y) s)

/-- 8XY4, ADD VX, VY (42_alu.md R136). -/
def execAddReg (x y : RegIndex) (s : State) : Host.Outcome State Fault Refusal :=
  .next (writeResultAndFlag x (s.reg x + s.reg y) (carryFlag (s.reg x) (s.reg y)) s)

/-- 8XY5, SUB VX, VY (42_alu.md R137). -/
def execSub (x y : RegIndex) (s : State) : Host.Outcome State Fault Refusal :=
  .next (writeResultAndFlag x (s.reg x - s.reg y) (noBorrowFlag (s.reg x) (s.reg y)) s)

/-- 8XY6, SHR VX, VY (42_alu.md R138). -/
def execShr (x y : RegIndex) (s : State) : Host.Outcome State Fault Refusal :=
  .next (writeResultAndFlag x (shiftSource s x y >>> 1) (shiftedOutLow (shiftSource s x y)) s)

/-- 8XY7, SUBN VX, VY (42_alu.md R139). -/
def execSubn (x y : RegIndex) (s : State) : Host.Outcome State Fault Refusal :=
  .next (writeResultAndFlag x (s.reg y - s.reg x) (noBorrowFlag (s.reg y) (s.reg x)) s)

/-- 8XYE, SHL VX, VY (42_alu.md R140). -/
def execShl (x y : RegIndex) (s : State) : Host.Outcome State Fault Refusal :=
  .next (writeResultAndFlag x (shiftSource s x y <<< 1) (shiftedOutHigh (shiftSource s x y)) s)

/-- CXNN, RND VX, NN: the byte on the `rnd` input, ANDed with NN (42_alu.md R141); the next byte then comes onto the input
(log 3). -/
def execRnd (x : RegIndex) (nn : Byte) (s : State) : Host.Outcome State Fault Refusal :=
  .next (s.setReg x (s.rnd &&& nn)).nextDraw.advance

end Sys2Proof.Machine
end

