-- ==== Sys2Proof/Machine/Control.lean ====
section
/-! DEFINITION. Meanings of the control transfer instructions (41_control.md R110 to R118). -/

namespace Sys2Proof.Machine

/-- 1NNN, JP NNN (41_control.md R111). -/
def execJp (nnn : BitVec 12) (s : State) : Host.Outcome State Fault Refusal := .next (s.setPc (zextAddr nnn))

/-- 2NNN, CALL NNN: the return address is that of the next instruction (41_control.md R112). -/
def execCall (nnn : BitVec 12) (s : State) : Host.Outcome State Fault Refusal :=
  match s.push (s.pc + 2) with
  | some t => .next (t.setPc (zextAddr nnn))
  | none => raiseFault .stackOverflow s

/-- 00EE, RET (41_control.md R113). -/
def execRet (s : State) : Host.Outcome State Fault Refusal :=
  match s.pop with
  | some (target, t) => .next (t.setPc target)
  | none => raiseFault .stackUnderflow s

/-- BNNN, JP V0, NNN: no mask on the sum (41_control.md R114). -/
def execJpV0 (nnn : BitVec 12) (s : State) : Host.Outcome State Fault Refusal :=
  .next (s.setPc (zextAddr nnn + zextByte (s.reg (jumpRegister s nnn))))

/-- 3XNN, SE VX, NN (41_control.md R115). -/
def execSeImm (x : RegIndex) (nn : Byte) (s : State) : Host.Outcome State Fault Refusal :=
  .next (s.skipIf (s.reg x == nn))

/-- 4XNN, SNE VX, NN (41_control.md R116). -/
def execSneImm (x : RegIndex) (nn : Byte) (s : State) : Host.Outcome State Fault Refusal :=
  .next (s.skipIf (s.reg x != nn))

/-- 5XY0, SE VX, VY (41_control.md R117). -/
def execSeReg (x y : RegIndex) (s : State) : Host.Outcome State Fault Refusal :=
  .next (s.skipIf (s.reg x == s.reg y))

/-- 9XY0, SNE VX, VY (41_control.md R118). -/
def execSneReg (x y : RegIndex) (s : State) : Host.Outcome State Fault Refusal :=
  .next (s.skipIf (s.reg x != s.reg y))

end Sys2Proof.Machine
end

