-- ==== Sys2Proof/Machine/Display.lean ====
section
/-! DEFINITION. Meanings of the display instructions (44_display.md R170, R171). -/

namespace Sys2Proof.Machine

/-- 00E0, CLS (44_display.md R170). -/
def execCls (s : State) : Host.Outcome State Fault Refusal := .next (s.setDisplay Framebuffer.clear).advance

/-- The framebuffer and the collision flag after drawing (44_display.md R171). -/
def drawSprite (s : State) (x y : RegIndex) (n : BitVec 4) : Framebuffer × Bool :=
  togglePixels s.fb false (drawPixels s x y n)

/-- DXYN, DRW VX, VY, N: the range check over the N sprite bytes, then the pixels, then VF <- collision and drawFlag <- 1
(44_display.md R171). -/
def execDrw (x y : RegIndex) (n : BitVec 4) (s : State) : Host.Outcome State Fault Refusal :=
  if inRange s.i.toNat n.toNat then
    .next ((s.setDisplay (drawSprite s x y n).1).setFlag (drawSprite s x y n).2).advance
  else raiseFault .memoryAddressOutOfRange s

end Sys2Proof.Machine
end

