-- ==== Sys2Proof/Machine/Index.lean ====
section
/-! DEFINITION. Meanings of the address register and memory transfer instructions (43_index_memory.md R150 to R155). The range
check stands before any access (20_memory.md R53). -/

namespace Sys2Proof.Machine

/-- ANNN, LD I, NNN (43_index_memory.md R150). -/
def execLdI (nnn : BitVec 12) (s : State) : Host.Outcome State Fault Refusal :=
  .next (s.setI (zextAddr nnn)).advance

/-- FX1E, ADD I, VX: the sum mod 2^16; VF written last, and only under `addToIOverflowSetsVf` (43_index_memory.md R151). -/
def execAddI (x : RegIndex) (s : State) : Host.Outcome State Fault Refusal :=
  .next ((s.setI (s.i + zextByte (s.reg x))).setFlagIf s.quirks.addToIOverflowSetsVf (indexOverflow s.i (s.reg x))).advance

/-- FX29, LD F, VX (43_index_memory.md R152). -/
def execLdF (x : RegIndex) (s : State) : Host.Outcome State Fault Refusal :=
  .next (s.setI (glyphAddress (s.reg x))).advance

/-- FX33, LD B, VX: three bytes at I, I + 1, I + 2 (43_index_memory.md R153). -/
def execLdB (x : RegIndex) (s : State) : Host.Outcome State Fault Refusal :=
  if inRange s.i.toNat 3 then .next (s.setMemory (s.memory.writeBytes s.i.toNat (bcdDigits (s.reg x)))).advance
  else raiseFault .memoryAddressOutOfRange s

/-- FX55, LD [I], VX: V0..VX to I..I + X (43_index_memory.md R154). -/
def execStoreRegs (x : RegIndex) (s : State) : Host.Outcome State Fault Refusal :=
  if inRange s.i.toNat (moveCount x) then
    .next ((s.setMemory (s.memory.writeBytes s.i.toNat (s.regBytes (moveCount x)))).setI (indexAfterMove s x)).advance
  else raiseFault .memoryAddressOutOfRange s

/-- FX65, LD VX, [I]: I..I + X to V0..VX (43_index_memory.md R155). -/
def execLoadRegs (x : RegIndex) (s : State) : Host.Outcome State Fault Refusal :=
  if inRange s.i.toNat (moveCount x) then
    .next ((s.setRegBytes (s.memory.readBytes s.i.toNat (moveCount x))).setI (indexAfterMove s x)).advance
  else raiseFault .memoryAddressOutOfRange s

end Sys2Proof.Machine
end

