-- ==== Sys2Proof/Machine/Input.lean ====
section
/-! DEFINITION. Meanings of the key input and timer instructions (45_input_timers.md R180 to R185). -/

namespace Sys2Proof.Machine

/-- EX9E, SKP VX (45_input_timers.md R180). -/
def execSkp (x : RegIndex) (s : State) : Host.Outcome State Fault Refusal :=
  .next (s.skipIf (s.keyPressed (lowNibble (s.reg x))))

/-- EXA1, SKNP VX (45_input_timers.md R181). -/
def execSknp (x : RegIndex) (s : State) : Host.Outcome State Fault Refusal :=
  .next (s.skipIf (!s.keyPressed (lowNibble (s.reg x))))

/-- FX0A, LD VX, K: with no key pressed nothing changes, so the next Step runs it again (45_input_timers.md R182). -/
def execLdVxK (x : RegIndex) (s : State) : Host.Outcome State Fault Refusal :=
  match s.lowestKey with
  | some k => .next (s.setReg x (k.setWidth 8)).advance
  | none => .next s

/-- FX07, LD VX, DT (45_input_timers.md R183). -/
def execLdVxDt (x : RegIndex) (s : State) : Host.Outcome State Fault Refusal := .next (s.setReg x s.dt).advance

/-- FX15, LD DT, VX (45_input_timers.md R184). -/
def execLdDtVx (x : RegIndex) (s : State) : Host.Outcome State Fault Refusal := .next (s.setDt (s.reg x)).advance

/-- FX18, LD ST, VX (45_input_timers.md R185). -/
def execLdStVx (x : RegIndex) (s : State) : Host.Outcome State Fault Refusal := .next (s.setSt (s.reg x)).advance

end Sys2Proof.Machine
end

