-- ==== Sys2Proof/Machine/Step.lean ====
section
/-! DEFINITION. One Step: halted check, fetch, decode, execute, in the fault priority of 60_exceptions.md R205
(40_engine.md R90), and the placing of an instruction where the next Step fetches. -/

namespace Sys2Proof.Machine

/-- Step (40_engine.md R90). The `rnd` input is the field `rnd` (log 3); `traceEnabled` has no effect on state (R98).
Every Step ends in a next state (R99). -/
def step (s : State) : Host.Outcome State Fault Refusal :=
  if s.halted then .next s
  else
    match s.fetch with
    | none => raiseFault .memoryAddressOutOfRange s
    | some w =>
      match decodeWord w with
      | .error _ => raiseFault .unknownOpcode s
      | .ok i => exec i s

/-- The state with a table word stored where the next Step fetches (log 7). -/
def State.withFetchWord (s : State) (nbits w : Nat) : State := s.placeWord (tableWord nbits w)

end Sys2Proof.Machine
end

