-- ==== Sys2Proof/Machine/HostOps.lean ====
section
/-! DEFINITION. The host interface: the six operations and the five read-only ports of 00_scope.md R12, and runs as lists of
operations (70_reset_and_hazards.md R237). -/

namespace Sys2Proof.Machine

/-- Reset(quirks): every piece of state takes its power-on value (70_reset_and_hazards.md R230). FONT is a parameter of the
block and stays (00_scope.md R10); the random source is not state, so what comes onto the `rnd` input goes on (log 3). -/
def resetBlock (q : Quirks) (s : State) : State := State.powerOn s.memory.font q s.rnd s.draws

/-- The status LoadProgram returns (20_memory.md R58). RomTooLarge is no machine fault (60_exceptions.md R201). -/
inductive LoadStatus where
  | ok
  | romTooLarge
deriving DecidableEq, Repr

/-- LoadProgram(bytes) (20_memory.md R58). -/
def loadProgram (bytes : List Byte) (s : State) : LoadStatus × State :=
  if Config.maxProgramLength < bytes.length then (.romTooLarge, s)
  else (.ok, s.setMemory (s.memory.writeBytes Config.programBase bytes))

/-- Step(traceEnabled, rnd): a Step with `rnd` on its input (40_engine.md R90); the trace changes no state (R98). -/
def stepOp (_traceEnabled : Bool) (rnd : Byte) (s : State) : Host.Outcome State Fault Refusal := step { s with rnd := rnd }

/-- One counter, one Tick: toward 0, never below (60_exceptions.md R210). -/
def countDown (t : Byte) : Byte := if t = 0 then 0 else t - 1

/-- Tick() (60_exceptions.md R210). -/
def tick (s : State) : State := (s.setDt (countDown s.dt)).setSt (countDown s.st)

/-- SetKeyState(key, pressed) (40_engine.md R101). -/
def setKeyState (k : KeyCode) (pressed : Bool) (s : State) : State := { s with key := s.key.set k.toNat pressed k.isLt }

/-- AcknowledgeDraw() (40_engine.md R102). -/
def acknowledgeDraw (s : State) : State := { s with drawFlag := false }

/-- DrawFlagSet() (40_engine.md R103). -/
def drawFlagSet (s : State) : Bool := s.drawFlag

/-- Framebuffer() (40_engine.md R103). -/
def framebufferPort (s : State) : Framebuffer := s.fb

/-- SoundActive(): ST != 0, combinational (60_exceptions.md R211). -/
def soundActive (s : State) : Bool := s.st != 0

/-- The code of the fault register (60_exceptions.md R202). -/
def faultCodeBits : FaultCode → BitVec 3
  | .none => 0
  | .stackOverflow => 1
  | .stackUnderflow => 2
  | .unknownOpcode => 3
  | .memoryAddressOutOfRange => 4

/-- Fault() (60_exceptions.md R202). -/
def faultPort (s : State) : BitVec 3 := faultCodeBits s.fault

/-- DumpMemory(fromOffset): the bytes from there to 0xFFF (40_engine.md R104); their text format is outside the block. -/
def dumpMemory (fromOffset : BitVec 12) (s : State) : List Byte :=
  s.memory.readBytes fromOffset.toNat (Config.memorySize - fromOffset.toNat)

/-- The operations the host may issue (00_scope.md R12). -/
inductive HostOp where
  | reset (q : Quirks)
  | loadProgram (bytes : List Byte)
  | step (traceEnabled : Bool) (rnd : Byte)
  | tick
  | setKeyState (k : KeyCode) (pressed : Bool)
  | acknowledgeDraw
deriving DecidableEq, Repr

/-- One operation is one atomic transition (00_scope.md R7, R13). LoadProgram's status is left aside here. -/
def applyOp (op : HostOp) (s : State) : Host.Outcome State Fault Refusal :=
  match op with
  | .reset q => .next (resetBlock q s)
  | .loadProgram bytes => .next (loadProgram bytes s).2
  | .step traceEnabled rnd => stepOp traceEnabled rnd s
  | .tick => .next (tick s)
  | .setKeyState k pressed => .next (setKeyState k pressed s)
  | .acknowledgeDraw => .next (acknowledgeDraw s)

/-- A run: a finite sequence of operations, each seeing the effects of those before it (00_scope.md R13,
70_reset_and_hazards.md R237). Step and Tick interleave as the list says (60_exceptions.md R209). -/
def runOps : List HostOp → State → Host.Outcome State Fault Refusal
  | [], s => .next s
  | op :: ops, s =>
    match applyOp op s with
    | .next t => runOps ops t
    | .fault r => .fault r
    | .refused r => .refused r

end Sys2Proof.Machine
end

