-- ==== Sys2Proof/Safety.lean ====
section
/-! DEFINITION. The terms claims are made in: the invariant, a state in which the engine runs, the fault a Step must raise, the
pixels a sprite covers, and the frames that say which parts of the state two states share. -/

namespace Sys2Proof.Machine

/-! ### Safe states -/

/-- The invariant: memory is in its canonical form, every listed cell inside the 4096 bytes (20_memory.md R55). Every other
bound of 10_state.md R20 (SP in 0..16, widths, sizes) is in the types. -/
def State.Inv (s : State) : Prop := s.memory.wf

/-- The engine runs: no fault is recorded and the fetch is inside memory (40_engine.md R90, R91). -/
def State.CanFetch (s : State) : Prop := s.fault = .none ∧ s.pc.toNat ≤ 0xFFE

/-- The fault the next Step must raise, first cause first (60_exceptions.md R200, R205), in a state with no fault recorded. -/
def State.firstFault (s : State) : FaultCode :=
  if 0xFFE < s.pc.toNat then .memoryAddressOutOfRange
  else
    match decodeWord (wordOfBytes (s.memory.read s.pc.toNat) (s.memory.read (s.pc.toNat + 1))) with
    | .error _ => .unknownOpcode
    | .ok (.call _) => if s.sp.val = 16 then .stackOverflow else .none
    | .ok .ret => if s.sp.val = 0 then .stackUnderflow else .none
    | .ok (.drw _ _ n) =>
      if 0 < n.toNat ∧ 0xFFF < s.i.toNat + n.toNat - 1 then .memoryAddressOutOfRange else .none
    | .ok (.ldB _) => if 0xFFF < s.i.toNat + 2 then .memoryAddressOutOfRange else .none
    | .ok (.storeRegs x) => if 0xFFF < s.i.toNat + x.toNat then .memoryAddressOutOfRange else .none
    | .ok (.loadRegs x) => if 0xFFF < s.i.toNat + x.toNat then .memoryAddressOutOfRange else .none
    | .ok _ => .none

/-! ### Frames: what two states share -/

/-- Every byte of memory reads the same in both. -/
def SameMemory (s t : State) : Prop := ∀ a : Nat, t.memory.read a = s.memory.read a

/-- Every byte of memory outside base .. base + len - 1 reads the same in both. -/
def SameMemoryOutside (base len : Nat) (s t : State) : Prop :=
  ∀ a : Nat, a < base ∨ base + len ≤ a → t.memory.read a = s.memory.read a

/-- Every general register is the same in both. -/
def SameRegs (s t : State) : Prop := ∀ k : RegIndex, t.reg k = s.reg k

/-- SP and every entry of the return stack are the same in both. -/
def SameStack (s t : State) : Prop := t.sp = s.sp ∧ ∀ j : Fin 16, t.stack[j] = s.stack[j]

/-- Both timers are the same in both. -/
def SameTimers (s t : State) : Prop := t.dt = s.dt ∧ t.st = s.st

/-- Every pixel and the draw flag are the same in both. -/
def SameDisplay (s t : State) : Prop :=
  t.drawFlag = s.drawFlag ∧ ∀ (y : Fin 32) (x : Fin 64), t.fb.pixel y x = s.fb.pixel y x

/-- The latch, the quirks, the fault register and FONT are the same in both: no instruction that completes writes them
(10_state.md R32, R34; 00_scope.md R10). -/
def SameHostState (s t : State) : Prop :=
  t.key = s.key ∧ t.quirks = s.quirks ∧ t.fault = s.fault ∧ t.memory.font = s.memory.font

/-- The model's own view of the `rnd` input is the same in both (log 3). -/
def SameDraw (s t : State) : Prop := t.rnd = s.rnd ∧ t.draws = s.draws

/-- Only memory, I, the general registers, PC and the `rnd` input may differ. -/
def SameStackTimersDisplay (s t : State) : Prop :=
  SameStack s t ∧ SameTimers s t ∧ SameDisplay s t ∧ SameHostState s t

/-- Only the general registers and PC may differ. -/
def OnlyRegsAndPc (s t : State) : Prop := SameMemory s t ∧ t.i = s.i ∧ SameStackTimersDisplay s t ∧ SameDraw s t

/-- Only PC may differ. -/
def OnlyPc (s t : State) : Prop := SameRegs s t ∧ OnlyRegsAndPc s t

/-! ### Effects of one shape -/

/-- V[x] holds b, every other general register is as before, PC is PC + 2 mod 2^16, nothing else differs. -/
def WritesReg (x : RegIndex) (b : Byte) (s t : State) : Prop :=
  (∀ k : RegIndex, t.reg k = if k = x then b else s.reg k) ∧ t.pc = s.pc + 2 ∧ OnlyRegsAndPc s t

/-- VF holds f, also when x is F; else V[x] holds b; every other general register is as before, PC is PC + 2 mod 2^16,
nothing else differs (40_engine.md R97). -/
def WritesRegThenFlag (x : RegIndex) (b f : Byte) (s t : State) : Prop :=
  (∀ k : RegIndex, t.reg k = if k = 0xF then f else if k = x then b else s.reg k) ∧ t.pc = s.pc + 2 ∧ OnlyRegsAndPc s t

/-- PC is PC + 4 mod 2^16 when the condition holds and PC + 2 mod 2^16 when not; nothing else differs (40_engine.md R96). -/
def SkipsWhen (c : Prop) (s t : State) : Prop := (c → t.pc = s.pc + 4) ∧ (¬ c → t.pc = s.pc + 2) ∧ OnlyPc s t

/-! ### Sprites -/

/-- A 1 bit of the sprite DXYN draws falls on the pixel (44_display.md R171). -/
def SpriteCovers (s : State) (x y : RegIndex) (n : BitVec 4) (py : Fin 32) (px : Fin 64) : Prop :=
  ∃ r < n.toNat, ∃ c < 8, (s.memory.read (s.i.toNat + r)).getLsbD (7 - c) = true ∧
    py.val = ((s.reg y).toNat % 32 + r) % 32 ∧ px.val = ((s.reg x).toNat % 64 + c) % 64

/-- The sprite DXYN reads lies inside memory; with N = 0 there is none to read (20_memory.md R53). -/
def SpriteInMemory (s : State) (n : BitVec 4) : Prop := n.toNat = 0 ∨ s.i.toNat + n.toNat - 1 ≤ 0xFFF

/-- The instruction is 00E0 or DXYN, the two that write the display (10_state.md R31, R33). -/
def IsDisplayInstr (i : Instr) : Prop := i = .cls ∨ ∃ x y n, i = .drw x y n

end Sys2Proof.Machine
end

