-- ==== Sys2Proof/Certificates/Slice0/Obligations.lean ====
section
/-! DEFINITION. The statements for the provers, one for each entry of OBLIGATIONS.json. Each docstring names the rule of spec/ it
formalises, and the decision D of 92_eei_decisions.md, or the log entry, a clause rests on. -/

open Sys2Proof Sys2Proof.Machine

/-- 30_encoding.md R70, R72, R81: the formats and the decoder agree, for all 34 instructions and every operand value. -/
def Obligations.DecodeOfEncodeIsTheInstruction : Prop :=
  ∀ (i : Instr) (rest : List Byte), decodeBytes (bytesOfWord (encode i) ++ rest) = .ok (i, rest)

/-- 30_encoding.md R76, R80: no instruction has a don't-care bit, so each has exactly one word. -/
def Obligations.EncodeOfDecodeIsTheWord : Prop :=
  ∀ (w : Word) (i : Instr), decodeWord w = .ok i → encode i = w

/-- 30_encoding.md R80 (match and mask) against R81 (the decision tree). That 0x0NNN and 0x5XYN, 0x9XYN with N not 0 match no row is the spec's own decision (D7, D8). -/
def Obligations.DecodesExactlyTheTableWords : Prop :=
  ∀ w : Word,
    (wellFormedWord w = true →
      ∃ i, decodeWord w = .ok i ∧ i.row.selects w = true ∧ i.row ∈ opcodeTable) ∧
    (wellFormedWord w = false → decodeWord w = .error (.unknown w))

/-- 30_encoding.md R80: 'No word matches more than one row.' -/
def Obligations.NoWordSelectsTwoRows : Prop :=
  ∀ (w : Word) (r q : OpcodeRow), r ∈ opcodeTable → q ∈ opcodeTable →
    r.selects w = true → q.selects w = true → r = q

/-- 30_encoding.md R82, the list by family. Which words are illegal is the spec's own decision (D3, D7, D8, D9). -/
def Obligations.IllegalWordsAreTheListedOnes : Prop :=
  ∀ w : Word, decodeWord w = .error (.unknown w) ↔
    (w.toNat / 0x1000 = 0x0 ∧ w ≠ 0x00E0 ∧ w ≠ 0x00EE) ∨
    (w.toNat / 0x1000 = 0x5 ∧ w.toNat % 0x10 ≠ 0) ∨
    (w.toNat / 0x1000 = 0x8 ∧ w.toNat % 0x10 ∈ [0x8, 0x9, 0xA, 0xB, 0xC, 0xD, 0xF]) ∨
    (w.toNat / 0x1000 = 0x9 ∧ w.toNat % 0x10 ≠ 0) ∨
    (w.toNat / 0x1000 = 0xE ∧ w.toNat % 0x100 ∉ [0x9E, 0xA1]) ∨
    (w.toNat / 0x1000 = 0xF ∧
      w.toNat % 0x100 ∉ [0x07, 0x0A, 0x15, 0x18, 0x1E, 0x29, 0x33, 0x55, 0x65])

/-- 30_encoding.md R72 and R80: words written out from the formats, one for each family (00_scope.md R19: the value of the high nibble). -/
def Obligations.WrittenOutWordsDecode : Prop :=
  decodeWord 0b0000000011101110 = .ok .ret ∧
  decodeWord 0b0001101010111100 = .ok (.jp 0xABC) ∧
  decodeWord 0b0010001100000000 = .ok (.call 0x300) ∧
  decodeWord 0b0011010000010010 = .ok (.seImm 0x4 0x12) ∧
  decodeWord 0b0100010100010011 = .ok (.sneImm 0x5 0x13) ∧
  decodeWord 0b0101000100100000 = .ok (.seReg 0x1 0x2) ∧
  decodeWord 0b0110101001000010 = .ok (.ldImm 0xA 0x42) ∧
  decodeWord 0b0111111100000001 = .ok (.addImm 0xF 0x01) ∧
  decodeWord 0b1000001111000100 = .ok (.addReg 0x3 0xC) ∧
  decodeWord 0b1001000100100000 = .ok (.sneReg 0x1 0x2) ∧
  decodeWord 0b1010000100100011 = .ok (.ldI 0x123) ∧
  decodeWord 0b1011001000010000 = .ok (.jpV0 0x210) ∧
  decodeWord 0b1100001100001111 = .ok (.rnd 0x3 0x0F) ∧
  decodeWord 0b1101011010011111 = .ok (.drw 0x6 0x9 0xF) ∧
  decodeWord 0b1110100010011110 = .ok (.skp 0x8) ∧
  decodeWord 0b1111000101010101 = .ok (.storeRegs 0x1)

/-- 20_memory.md R50. -/
def Obligations.FetchReadsHighByteFirst : Prop :=
  ∀ s : State, s.pc.toNat ≤ 0xFFE →
    ∃ w : Word, s.fetch = some w ∧ w.extractLsb' 8 8 = s.memory.read s.pc.toNat ∧
      w.extractLsb' 0 8 = s.memory.read (s.pc.toNat + 1)

/-- 40_engine.md R90: fetch, decode, execute. Every meaning writes the next PC itself (R96), so step adds nothing around exec. -/
def Obligations.StepRunsTheDecodedInstruction : Prop :=
  ∀ (s : State) (i : Instr), s.CanFetch →
    decodeBytes [s.memory.read s.pc.toNat, s.memory.read (s.pc.toNat + 1)] = .ok (i, []) → step s = exec i s

/-- 40_engine.md R91, R93, 60_exceptions.md R203. That both are reported faults is the spec's own decision (D3, D4). -/
def Obligations.FetchAndDecodeFaultsAreTaken : Prop :=
  ∀ s : State, s.fault = .none →
    (0xFFE < s.pc.toNat → step s = .next { s with fault := .memoryAddressOutOfRange }) ∧
    (s.pc.toNat ≤ 0xFFE →
      wellFormedWord (wordOfBytes (s.memory.read s.pc.toNat) (s.memory.read (s.pc.toNat + 1))) = false →
      step s = .next { s with fault := .unknownOpcode })

/-- 60_exceptions.md R204, 40_engine.md R90. The sticky halt is the spec's own decision (D5). -/
def Obligations.HaltedStepChangesNothing : Prop :=
  ∀ s : State, s.fault ≠ .none → step s = .next s

/-- 40_engine.md R99. That a Step that faults (60_exceptions.md R203) and a Step of a halted engine (R204) answer a next state too is the model's reading of the spec's own decision D5 (log 4, DEDUCED). -/
def Obligations.EveryStepAnswersANextState : Prop :=
  ∀ s : State, ∃ t : State, step s = .next t

/-- 60_exceptions.md R200 (causes) and R205 (order). The order is marked by the spec as its own (derived, D36). -/
def Obligations.StepFaultIsTheFirstCause : Prop :=
  ∀ s : State, s.fault = .none → ∃ t : State, step s = .next t ∧ t.fault = s.firstFault

/-- 40_engine.md R95 and 60_exceptions.md R203: a Step is all or nothing. That it is so is the spec's own decision (D4, D5). -/
def Obligations.FaultingStepChangesOnlyTheFaultRegister : Prop :=
  ∀ s t : State, s.fault = .none → step s = .next t → t.fault ≠ .none → t = { s with fault := t.fault }

/-- 70_reset_and_hazards.md R230. The canonical form is the model's own (Memory.wf). -/
def Obligations.ResetMeetsTheInvariant : Prop :=
  State.reset.Inv ∧ ∀ (q : Quirks) (s : State), (resetBlock q s).Inv

/-- 20_memory.md R53: every access is checked before it is made, so no primitive is called with an address above 0xFFF (00_scope.md R16). The canonical form is the model's own (Memory.wf). -/
def Obligations.StepKeepsTheInvariant : Prop :=
  ∀ s t : State, s.Inv → step s = .next t → t.Inv

/-- 70_reset_and_hazards.md R237 (a run is a finite sequence of operations). The canonical form is the model's own (Memory.wf). -/
def Obligations.RunsKeepTheInvariant : Prop :=
  ∀ (ops : List HostOp) (s t : State), s.Inv → runOps ops s = .next t → t.Inv

/-- 10_state.md R33, over every instruction and every host operation. DRW's fault exit is 44_display.md R171 with 60_exceptions.md R203; that such a draw faults, and that a fault changes nothing else, are the spec's own decisions (D4, D5, log 9). -/
def Obligations.DrawFlagHasOnlyItsWriters : Prop :=
  (∀ s t : State, exec .cls s = .next t → t.drawFlag = true) ∧
  (∀ (x y : RegIndex) (n : BitVec 4) (s t : State), exec (.drw x y n) s = .next t →
    (SpriteInMemory s n → t.drawFlag = true) ∧
    (¬ SpriteInMemory s n → t = { s with fault := .memoryAddressOutOfRange })) ∧
  (∀ (i : Instr) (s t : State), ¬ IsDisplayInstr i → exec i s = .next t → t.drawFlag = s.drawFlag) ∧
  (∀ (trace : Bool) (b : Byte) (s t : State), stepOp trace b s = .next t → t.drawFlag ≠ s.drawFlag →
    t.drawFlag = true ∧ s.CanFetch ∧ ∃ i, IsDisplayInstr i ∧
      decodeBytes [s.memory.read s.pc.toNat, s.memory.read (s.pc.toNat + 1)] = .ok (i, [])) ∧
  (∀ s : State, (acknowledgeDraw s).drawFlag = false) ∧
  (∀ (q : Quirks) (s : State), (resetBlock q s).drawFlag = true) ∧
  (∀ s : State, (tick s).drawFlag = s.drawFlag) ∧
  (∀ (k : KeyCode) (b : Bool) (s : State), (setKeyState k b s).drawFlag = s.drawFlag) ∧
  (∀ (bytes : List Byte) (s : State), (loadProgram bytes s).2.drawFlag = s.drawFlag)

/-- 10_state.md R20 (the column 'writers'), R25, R28, R30, R31. That FX55 and FX65 move I at all under the quirk rests on D15, that RET leaves the entry on D20. -/
def Obligations.EachFieldHasOnlyItsWriters : Prop :=
  ∀ (i : Instr) (s t : State), exec i s = .next t →
    ((∃ a, t.memory.read a ≠ s.memory.read a) → ∃ x, i = .ldB x ∨ i = .storeRegs x) ∧
    (t.i ≠ s.i → (∃ nnn, i = .ldI nnn) ∨ (∃ x, i = .addI x ∨ i = .ldF x) ∨
      (s.quirks.loadStoreIncrementsI = true ∧ ∃ x, i = .storeRegs x ∨ i = .loadRegs x)) ∧
    (t.sp ≠ s.sp → i = .ret ∨ ∃ nnn, i = .call nnn) ∧
    (t.stack ≠ s.stack → ∃ nnn, i = .call nnn) ∧
    (t.dt ≠ s.dt → ∃ x, i = .ldDtVx x) ∧
    (t.st ≠ s.st → ∃ x, i = .ldStVx x) ∧
    (t.fb ≠ s.fb → IsDisplayInstr i)

/-- 10_state.md R32 ('Only SetKeyState writes it') and R34 ('No instruction reads or writes the quirk bits'). That the quirks are fixed until the next Reset is D38. That no operation changes FONT is how the model reads a parameter of the block (00_scope.md R10, D24, log 1, PRESUMED). -/
def Obligations.LatchQuirksAndFontAreReadOnly : Prop :=
  ∀ s t : State, step s = .next t →
    t.key = s.key ∧ t.quirks = s.quirks ∧ t.memory.font = s.memory.font

/-- 40_engine.md R90 ('rnd is read only by CXNN'; that it is an input at all is D2) and 10_state.md R30 ('No instruction reads ST'). The field `rnd` is the model's own (log 3). -/
def Obligations.RandomByteAndSoundTimerAreNotReadByOthers : Prop :=
  ∀ (i : Instr) (s t : State) (b : Byte), exec i s = .next t →
    ((∀ x nn, i ≠ .rnd x nn) → exec i { s with rnd := b } = .next { t with rnd := b }) ∧
    ((∀ x, i ≠ .ldStVx x) → exec i { s with st := b } = .next { t with st := b }) ∧
    ((∃ x, i = .ldStVx x) → exec i { s with st := b } = .next t)

/-- 10_state.md R27, marked by the spec as derived; the conditions of the skips are 41_control.md R115 to R118 and 45_input_timers.md R180, R181, the wait R182, a fault's PC 60_exceptions.md R203. No mask and arithmetic modulo 2^16 are D18, and the low nibble of VX as the key of SKP and SKNP is D21, the spec's own decisions (log 9). -/
def Obligations.NextPcFollowsTheTable : Prop :=
  ∀ (i : Instr) (s t : State), s.fault = .none → exec i s = .next t →
    (t.fault ≠ .none → t.pc = s.pc) ∧
    (t.fault = .none →
      match i with
      | .jp nnn => t.pc.toNat = nnn.toNat
      | .call nnn => t.pc.toNat = nnn.toNat
      | .ret => ∃ j : Fin 16, j.val + 1 = s.sp.val ∧ t.pc = s.stack[j]
      | .jpV0 nnn =>
        t.pc.toNat = nnn.toNat +
          (s.reg (if s.quirks.jumpWithOffsetUsesVx then BitVec.ofNat 4 (nnn.toNat / 0x100) else 0)).toNat
      | .seImm x nn => t.pc = if s.reg x = nn then s.pc + 4 else s.pc + 2
      | .sneImm x nn => t.pc = if s.reg x ≠ nn then s.pc + 4 else s.pc + 2
      | .seReg x y => t.pc = if s.reg x = s.reg y then s.pc + 4 else s.pc + 2
      | .sneReg x y => t.pc = if s.reg x ≠ s.reg y then s.pc + 4 else s.pc + 2
      | .skp x =>
        t.pc = if s.keyPressed (BitVec.ofNat 4 (s.reg x).toNat) = true then s.pc + 4 else s.pc + 2
      | .sknp x =>
        t.pc = if s.keyPressed (BitVec.ofNat 4 (s.reg x).toNat) = false then s.pc + 4 else s.pc + 2
      | .ldVxK _ => t.pc = if ∀ k, s.keyPressed k = false then s.pc else s.pc + 2
      | _ => t.pc = s.pc + 2)

/-- 44_display.md R173, marked by the spec as derived. -/
def Obligations.ClearDrawFlagMeansUnchangedFramebuffer : Prop :=
  ∀ (ops : List HostOp) (s t : State),
    (∀ op ∈ ops, op ≠ .acknowledgeDraw) → runOps ops s = .next t → t.drawFlag = false → t.fb = s.fb

/-- 60_exceptions.md R204 and R207. The sticky halt is the spec's own decision (D5). -/
def Obligations.FaultStaysUntilReset : Prop :=
  ∀ (ops : List HostOp) (s t : State),
    (∀ op ∈ ops, ∀ q, op ≠ .reset q) → s.fault ≠ .none → runOps ops s = .next t →
    t.fault = s.fault ∧ t.pc = s.pc ∧ t.v = s.v ∧ t.i = s.i ∧ t.sp = s.sp ∧ t.stack = s.stack ∧ t.fb = s.fb

/-- 41_control.md R111, with its two corner cases. The fault of the fetch after a jump to 0xFFF is 40_engine.md R91 and 60_exceptions.md R203, the spec's own decisions (D4, D5, log 9). -/
def Obligations.JumpSetsPc : Prop :=
  ∀ (nnn : BitVec 12) (s : State), ∃ t : State,
    exec (.jp nnn) s = .next t ∧ t.pc.toNat = nnn.toNat ∧ OnlyPc s t ∧ (s.pc.toNat = nnn.toNat → t = s) ∧
    (nnn = 0xFFF → s.fault = .none → step t = .next { t with fault := .memoryAddressOutOfRange })

/-- 41_control.md R112. SP as a count of entries beside the memory is the spec's own decision (D20). -/
def Obligations.CallPushesTheNextAddress : Prop :=
  ∀ (nnn : BitVec 12) (s : State), s.sp.val < 16 → ∃ t : State,
    exec (.call nnn) s = .next t ∧ t.pc.toNat = nnn.toNat ∧ t.sp.val = s.sp.val + 1 ∧
    (∀ j : Fin 16, t.stack[j] = if j.val = s.sp.val then s.pc + 2 else s.stack[j]) ∧
    SameRegs s t ∧ SameMemory s t ∧ t.i = s.i ∧ SameTimers s t ∧ SameDisplay s t ∧ SameHostState s t ∧ SameDraw s t

/-- 41_control.md R113. SP as a count of entries and the entry left as it is are the spec's own decision (D20). -/
def Obligations.ReturnPopsTheAddress : Prop :=
  ∀ s : State, 0 < s.sp.val → ∃ t : State,
    exec .ret s = .next t ∧ t.sp.val + 1 = s.sp.val ∧
    (∀ j : Fin 16, j.val + 1 = s.sp.val → t.pc = s.stack[j]) ∧ (∀ j : Fin 16, t.stack[j] = s.stack[j]) ∧
    SameRegs s t ∧ SameMemory s t ∧ t.i = s.i ∧ SameTimers s t ∧ SameDisplay s t ∧ SameHostState s t ∧ SameDraw s t

/-- 41_control.md R112, R113, 60_exceptions.md R203. The bounds of SP are the spec's own decision (D20). -/
def Obligations.CallAndReturnFaultAtTheEnds : Prop :=
  ∀ s : State,
    (s.sp.val = 16 → ∀ nnn, exec (.call nnn) s = .next { s with fault := .stackOverflow }) ∧
    (s.sp.val = 0 → exec .ret s = .next { s with fault := .stackUnderflow })

/-- 95_test_vectors.md L1-5, the source's round-trip property, from 41_control.md R112 and R113. -/
def Obligations.CallThenReturnResumesAfterTheCall : Prop :=
  ∀ (nnn : BitVec 12) (s : State), s.sp.val < 16 → ∃ t u : State,
    exec (.call nnn) s = .next t ∧ exec .ret t = .next u ∧ u.pc = s.pc + 2 ∧ u.sp = s.sp ∧ SameRegs s u

/-- 41_control.md R114. The meaning of the quirk is D16 and the missing mask D18, the spec's own decisions. -/
def Obligations.JumpWithOffsetAddsTheRegister : Prop :=
  ∀ (nnn : BitVec 12) (s : State), ∃ t : State,
    exec (.jpV0 nnn) s = .next t ∧ OnlyPc s t ∧
    (s.quirks.jumpWithOffsetUsesVx = false → t.pc.toNat = nnn.toNat + (s.reg 0).toNat) ∧
    (s.quirks.jumpWithOffsetUsesVx = true →
      t.pc.toNat = nnn.toNat + (s.reg (BitVec.ofNat 4 (nnn.toNat / 0x100))).toNat)

/-- 41_control.md R115, R116. -/
def Obligations.ImmediateSkipsCompareWithNn : Prop :=
  ∀ (x : RegIndex) (nn : Byte) (s : State),
    (∃ t : State, exec (.seImm x nn) s = .next t ∧ SkipsWhen (s.reg x = nn) s t) ∧
    (∃ t : State, exec (.sneImm x nn) s = .next t ∧ SkipsWhen (s.reg x ≠ nn) s t)

/-- 41_control.md R117, R118. -/
def Obligations.RegisterSkipsCompareRegisters : Prop :=
  ∀ (x y : RegIndex) (s : State),
    (∃ t : State, exec (.seReg x y) s = .next t ∧ SkipsWhen (s.reg x = s.reg y) s t) ∧
    (∃ t : State, exec (.sneReg x y) s = .next t ∧ SkipsWhen (s.reg x ≠ s.reg y) s t)

/-- 45_input_timers.md R180, R181. The low nibble of VX as the key code is the spec's own decision (D21). -/
def Obligations.KeySkipsReadTheLatch : Prop :=
  ∀ (x : RegIndex) (s : State),
    (∃ t : State, exec (.skp x) s = .next t ∧
      SkipsWhen (s.keyPressed (BitVec.ofNat 4 (s.reg x).toNat) = true) s t) ∧
    (∃ t : State, exec (.sknp x) s = .next t ∧
      SkipsWhen (s.keyPressed (BitVec.ofNat 4 (s.reg x).toNat) = false) s t)

/-- 42_alu.md R130, R132. -/
def Obligations.LoadsOfImmediateAndRegister : Prop :=
  ∀ (x y : RegIndex) (nn : Byte) (s : State),
    (∃ t : State, exec (.ldImm x nn) s = .next t ∧ WritesReg x nn s t) ∧
    (∃ t : State, exec (.ldReg x y) s = .next t ∧ WritesReg x (s.reg y) s t)

/-- 42_alu.md R131. -/
def Obligations.AddImmediateWrapsAndSetsNoFlag : Prop :=
  ∀ (x : RegIndex) (nn : Byte) (s : State), ∃ t : State,
    exec (.addImm x nn) s = .next t ∧ WritesReg x (BitVec.ofNat 8 ((s.reg x).toNat + nn.toNat)) s t

/-- 42_alu.md R133 to R135. Writing VF last is D10 and the quirk's meaning D13, the spec's own decisions. -/
def Obligations.LogicOperationsClearVfUnderTheQuirk : Prop :=
  ∀ (x y : RegIndex) (s : State) (op : Instr) (r : Byte),
    (op = .orReg x y ∧ r = s.reg x ||| s.reg y) ∨ (op = .andReg x y ∧ r = s.reg x &&& s.reg y) ∨
      (op = .xorReg x y ∧ r = s.reg x ^^^ s.reg y) →
    ∃ t : State, exec op s = .next t ∧
      (s.quirks.logicOpsResetVf = true → WritesRegThenFlag x r 0 s t) ∧
      (s.quirks.logicOpsResetVf = false → WritesReg x r s t)

/-- 42_alu.md R136. That VF is written last is the spec's own decision (D10). -/
def Obligations.AddSetsCarryLast : Prop :=
  ∀ (x y : RegIndex) (s : State), ∃ t : State,
    exec (.addReg x y) s = .next t ∧
    WritesRegThenFlag x (BitVec.ofNat 8 ((s.reg x).toNat + (s.reg y).toNat))
      (if 255 < (s.reg x).toNat + (s.reg y).toNat then 1 else 0) s t

/-- 42_alu.md R137, R139. That VF is written last is the spec's own decision (D10), and so is its reading of 'no borrow' for 8XY7 (91_not_in_source.md N20). -/
def Obligations.SubtractionsSetNoBorrowLast : Prop :=
  ∀ (x y : RegIndex) (s : State),
    (∃ t : State, exec (.sub x y) s = .next t ∧
      WritesRegThenFlag x (BitVec.ofNat 8 (256 + (s.reg x).toNat - (s.reg y).toNat))
        (if (s.reg y).toNat ≤ (s.reg x).toNat then 1 else 0) s t) ∧
    (∃ t : State, exec (.subn x y) s = .next t ∧
      WritesRegThenFlag x (BitVec.ofNat 8 (256 + (s.reg y).toNat - (s.reg x).toNat))
        (if (s.reg x).toNat ≤ (s.reg y).toNat then 1 else 0) s t)

/-- 42_alu.md R138, R140. Destination and zero fill are D11, the order D10, the quirk D12, the spec's own decisions. -/
def Obligations.ShiftsSetTheBitShiftedOut : Prop :=
  ∀ (x y : RegIndex) (s : State) (src : Byte),
    (src = if s.quirks.shiftUsesVy then s.reg y else s.reg x) →
    (∃ t : State, exec (.shr x y) s = .next t ∧
      WritesRegThenFlag x (BitVec.ofNat 8 (src.toNat / 2)) (BitVec.ofNat 8 (src.toNat % 2)) s t) ∧
    (∃ t : State, exec (.shl x y) s = .next t ∧
      WritesRegThenFlag x (BitVec.ofNat 8 (src.toNat * 2)) (BitVec.ofNat 8 (src.toNat / 128)) s t)

/-- 42_alu.md R141 and 40_engine.md R90. The random byte as a free input of the Step is D2; the field `rnd` that carries it is the model's own (log 3), and the statement holds for each of its values. -/
def Obligations.RandomIsTheInputMasked : Prop :=
  ∀ (x : RegIndex) (nn : Byte) (s : State),
    (∃ t : State, exec (.rnd x nn) s = .next t ∧
      (∀ k : RegIndex, t.reg k = if k = x then s.rnd &&& nn else s.reg k) ∧
      t.pc = s.pc + 2 ∧ SameMemory s t ∧ t.i = s.i ∧ SameStackTimersDisplay s t) ∧
    (∀ (trace : Bool) (b : Byte), s.CanFetch →
      decodeBytes [s.memory.read s.pc.toNat, s.memory.read (s.pc.toNat + 1)] = .ok (.rnd x nn, []) →
      ∃ t : State, stepOp trace b s = .next t ∧
        (∀ k : RegIndex, t.reg k = if k = x then b &&& nn else s.reg k) ∧
        t.pc = s.pc + 2 ∧ SameMemory s t ∧ t.i = s.i ∧ SameStackTimersDisplay s t)

/-- 43_index_memory.md R150, R152. -/
def Obligations.LoadIndexAndGlyphAddress : Prop :=
  ∀ (nnn : BitVec 12) (x : RegIndex) (s : State),
    (∃ t : State, exec (.ldI nnn) s = .next t ∧ t.i.toNat = nnn.toNat ∧ t.pc = s.pc + 2 ∧
      SameRegs s t ∧ SameMemory s t ∧ SameStackTimersDisplay s t ∧ SameDraw s t) ∧
    (∃ t : State, exec (.ldF x) s = .next t ∧ t.i.toNat = (s.reg x).toNat % 16 * 5 ∧ t.pc = s.pc + 2 ∧
      SameRegs s t ∧ SameMemory s t ∧ SameStackTimersDisplay s t ∧ SameDraw s t)

/-- 43_index_memory.md R151. The threshold 0xFFF is D14, the width of I D17, the order D10, the spec's own decisions. -/
def Obligations.AddToIndexFlagsPassing0xFFF : Prop :=
  ∀ (x : RegIndex) (s : State), ∃ t : State,
    exec (.addI x) s = .next t ∧ t.i = BitVec.ofNat 16 (s.i.toNat + (s.reg x).toNat) ∧
    (∀ k : RegIndex, t.reg k =
      if s.quirks.addToIOverflowSetsVf = true ∧ k = 0xF then
        (if 0xFFF < s.i.toNat + (s.reg x).toNat then 1 else 0)
      else s.reg k) ∧
    t.pc = s.pc + 2 ∧ SameMemory s t ∧ SameStackTimersDisplay s t ∧ SameDraw s t

/-- 43_index_memory.md R153. The range check instead of a wrap is the spec's own decision (D4). -/
def Obligations.BcdStoresThreeDigits : Prop :=
  ∀ (x : RegIndex) (s : State), s.i.toNat + 2 ≤ 0xFFF → ∃ t : State,
    exec (.ldB x) s = .next t ∧
    (t.memory.read s.i.toNat).toNat = (s.reg x).toNat / 100 ∧
    (t.memory.read (s.i.toNat + 1)).toNat = (s.reg x).toNat / 10 % 10 ∧
    (t.memory.read (s.i.toNat + 2)).toNat = (s.reg x).toNat % 10 ∧
    SameMemoryOutside s.i.toNat 3 s t ∧ SameRegs s t ∧ t.i = s.i ∧ t.pc = s.pc + 2 ∧
    SameStackTimersDisplay s t ∧ SameDraw s t

/-- 43_index_memory.md R154. The range check is D4 and the amount of the advance D15, the spec's own decisions. -/
def Obligations.StoreRegistersCopiesToMemory : Prop :=
  ∀ (x : RegIndex) (s : State), s.i.toNat + x.toNat ≤ 0xFFF → ∃ t : State,
    exec (.storeRegs x) s = .next t ∧
    (∀ k : RegIndex, k.toNat ≤ x.toNat → t.memory.read (s.i.toNat + k.toNat) = s.reg k) ∧
    SameMemoryOutside s.i.toNat (x.toNat + 1) s t ∧ SameRegs s t ∧
    (t.i = if s.quirks.loadStoreIncrementsI then BitVec.ofNat 16 (s.i.toNat + x.toNat + 1) else s.i) ∧
    t.pc = s.pc + 2 ∧ SameStackTimersDisplay s t ∧ SameDraw s t

/-- 43_index_memory.md R155. The range check is D4 and the amount of the advance D15, the spec's own decisions. -/
def Obligations.LoadRegistersCopiesFromMemory : Prop :=
  ∀ (x : RegIndex) (s : State), s.i.toNat + x.toNat ≤ 0xFFF → ∃ t : State,
    exec (.loadRegs x) s = .next t ∧
    (∀ k : RegIndex, t.reg k = if k.toNat ≤ x.toNat then s.memory.read (s.i.toNat + k.toNat) else s.reg k) ∧
    SameMemory s t ∧
    (t.i = if s.quirks.loadStoreIncrementsI then BitVec.ofNat 16 (s.i.toNat + x.toNat + 1) else s.i) ∧
    t.pc = s.pc + 2 ∧ SameStackTimersDisplay s t ∧ SameDraw s t

/-- 20_memory.md R53, 60_exceptions.md R203. Fault instead of wrap is D4; no check for N = 0 is D28, the spec's own decisions. -/
def Obligations.AccessPastMemoryFaults : Prop :=
  ∀ (x y : RegIndex) (n : BitVec 4) (s : State),
    (0xFFF < s.i.toNat + 2 → exec (.ldB x) s = .next { s with fault := .memoryAddressOutOfRange }) ∧
    (0xFFF < s.i.toNat + x.toNat →
      exec (.storeRegs x) s = .next { s with fault := .memoryAddressOutOfRange } ∧
      exec (.loadRegs x) s = .next { s with fault := .memoryAddressOutOfRange }) ∧
    (0 < n.toNat → 0xFFF < s.i.toNat + n.toNat - 1 →
      exec (.drw x y n) s = .next { s with fault := .memoryAddressOutOfRange })

/-- 44_display.md R170. -/
def Obligations.ClearDisplayZeroesEveryPixel : Prop :=
  ∀ s : State, ∃ t : State,
    exec .cls s = .next t ∧ (∀ (y : Fin 32) (x : Fin 64), t.fb.pixel y x = false) ∧ t.drawFlag = true ∧
    t.pc = s.pc + 2 ∧ SameRegs s t ∧ SameMemory s t ∧ t.i = s.i ∧ SameStack s t ∧ SameTimers s t ∧
    SameHostState s t ∧ SameDraw s t

/-- 44_display.md R171. The bit order is D27, VF last D10, N = 0 D28, the spec's own decisions. -/
def Obligations.DrawXorsTheSprite : Prop :=
  ∀ (x y : RegIndex) (n : BitVec 4) (s : State), SpriteInMemory s n → ∃ t : State,
    exec (.drw x y n) s = .next t ∧
    (∀ (py : Fin 32) (px : Fin 64),
      (SpriteCovers s x y n py px → t.fb.pixel py px = !s.fb.pixel py px) ∧
      (¬ SpriteCovers s x y n py px → t.fb.pixel py px = s.fb.pixel py px)) ∧
    ((∃ (py : Fin 32) (px : Fin 64), s.fb.pixel py px = true ∧ t.fb.pixel py px = false) → t.reg 0xF = 1) ∧
    ((¬ ∃ (py : Fin 32) (px : Fin 64), s.fb.pixel py px = true ∧ t.fb.pixel py px = false) → t.reg 0xF = 0) ∧
    (∀ k : RegIndex, k ≠ 0xF → t.reg k = s.reg k) ∧ t.drawFlag = true ∧ t.pc = s.pc + 2 ∧
    SameMemory s t ∧ t.i = s.i ∧ SameStack s t ∧ SameTimers s t ∧ SameHostState s t ∧ SameDraw s t

/-- 44_display.md R171, corner case N = 0, the spec's own decision (D28). -/
def Obligations.DrawOfNoRowsOnlySetsVfAndDrawFlag : Prop :=
  ∀ (x y : RegIndex) (s : State), ∃ t : State,
    exec (.drw x y 0) s = .next t ∧ (∀ (py : Fin 32) (px : Fin 64), t.fb.pixel py px = s.fb.pixel py px) ∧
    t.reg 0xF = 0 ∧ (∀ k : RegIndex, k ≠ 0xF → t.reg k = s.reg k) ∧ t.drawFlag = true ∧ t.pc = s.pc + 2 ∧
    SameMemory s t ∧ t.i = s.i ∧ SameStack s t ∧ SameTimers s t ∧ SameHostState s t ∧ SameDraw s t

/-- 95_test_vectors.md L1-3, the source's self-inverse property, from 44_display.md R171. VF follows the source's words ('wherever the first draw set a pixel'). The last two clauses are what R171 supports of R172's derived 'iff the sprite bytes contain at least one 1 bit': its 'only if' always, its 'if' over pixels that were 0 before the first draw (log 10, DEDUCED). -/
def Obligations.DrawTwiceRestoresTheFramebuffer : Prop :=
  ∀ (x y : RegIndex) (n : BitVec 4) (s : State), x ≠ 0xF → y ≠ 0xF → SpriteInMemory s n → ∃ t u : State,
    exec (.drw x y n) s = .next t ∧ exec (.drw x y n) t = .next u ∧ u.fb = s.fb ∧
    ((∃ (py : Fin 32) (px : Fin 64), s.fb.pixel py px = false ∧ t.fb.pixel py px = true) → u.reg 0xF = 1) ∧
    ((¬ ∃ (py : Fin 32) (px : Fin 64), s.fb.pixel py px = false ∧ t.fb.pixel py px = true) → u.reg 0xF = 0) ∧
    (u.reg 0xF = 1 → ∃ r < n.toNat, s.memory.read (s.i.toNat + r) ≠ 0) ∧
    ((∃ r < n.toNat, s.memory.read (s.i.toNat + r) ≠ 0) →
      (∀ (py : Fin 32) (px : Fin 64), SpriteCovers s x y n py px → s.fb.pixel py px = false) → u.reg 0xF = 1)

/-- 45_input_timers.md R182. The lowest key of several is the spec's own decision (D22). -/
def Obligations.KeyWaitTakesTheLowestKey : Prop :=
  ∀ (x : RegIndex) (s : State),
    ((∀ k, s.keyPressed k = false) → exec (.ldVxK x) s = .next s) ∧
    (∀ k : KeyCode, s.keyPressed k = true → (∀ j : KeyCode, j.toNat < k.toNat → s.keyPressed j = false) →
      ∃ t : State, exec (.ldVxK x) s = .next t ∧ WritesReg x (BitVec.ofNat 8 k.toNat) s t)

/-- 45_input_timers.md R183, R184, R185. SoundActive as ST != 0 is the spec's own decision (D23, log 9). -/
def Obligations.TimerTransfersMoveOneByte : Prop :=
  ∀ (x : RegIndex) (s : State),
    (∃ t : State, exec (.ldVxDt x) s = .next t ∧ WritesReg x s.dt s t) ∧
    (∃ t : State, exec (.ldDtVx x) s = .next t ∧ t.dt = s.reg x ∧ t.st = s.st ∧ t.pc = s.pc + 2 ∧
      SameRegs s t ∧ SameMemory s t ∧ t.i = s.i ∧ SameStack s t ∧ SameDisplay s t ∧ SameHostState s t ∧ SameDraw s t) ∧
    (∃ t : State, exec (.ldStVx x) s = .next t ∧ t.st = s.reg x ∧ (soundActive t = true ↔ s.reg x ≠ 0) ∧ t.dt = s.dt ∧
      t.pc = s.pc + 2 ∧ SameRegs s t ∧ SameMemory s t ∧ t.i = s.i ∧ SameStack s t ∧ SameDisplay s t ∧ SameHostState s t ∧ SameDraw s t)

/-- 20_memory.md R60 (the sequential memory is D31). -/
def Obligations.ReadGivesTheMostRecentWrite : Prop :=
  ∀ (m : Memory) (a b : Nat) (v : Byte), (m.write a v).read b = if b = a then v else m.read b

/-- 20_memory.md R63: a store is seen by the very next fetch (D31). -/
def Obligations.StoredBytesAreFetchedNext : Prop :=
  ∀ (x : RegIndex) (s : State), 1 ≤ x.toNat → s.i = s.pc + 2 → s.pc.toNat + 2 + x.toNat ≤ 0xFFF → ∃ t : State,
    exec (.storeRegs x) s = .next t ∧ t.fetch = some (wordOfBytes (s.reg 0) (s.reg 1))

/-- 20_memory.md R58. That it touches nothing else and works at any time is the spec's own decision (D26). -/
def Obligations.LoadProgramCopiesOrRefuses : Prop :=
  ∀ (bytes : List Byte) (s : State),
    (0xE00 < bytes.length → loadProgram bytes s = (.romTooLarge, s)) ∧
    (bytes.length ≤ 0xE00 → ∃ t : State, loadProgram bytes s = (.ok, t) ∧
      (∀ j : Fin bytes.length, t.memory.read (0x200 + j.val) = bytes[j]) ∧
      SameMemoryOutside 0x200 bytes.length s t ∧ SameRegs s t ∧ t.i = s.i ∧ t.pc = s.pc ∧
      SameStackTimersDisplay s t ∧ SameDraw s t)

/-- 70_reset_and_hazards.md R230. FONT is a parameter (D24); memory outside it, the latch and the fault register are D25; Reset at any time is D38. -/
def Obligations.ResetPutsEveryPowerOnValue : Prop :=
  ∀ (q : Quirks) (s : State),
    (∀ a < 4096, (resetBlock q s).memory.read a = if h : a < 80 then s.memory.font[a] else 0) ∧
    (∀ k : RegIndex, (resetBlock q s).reg k = 0) ∧ (resetBlock q s).i = 0 ∧ (resetBlock q s).pc = 0x200 ∧
    (resetBlock q s).sp = 0 ∧ (∀ j : Fin 16, (resetBlock q s).stack[j] = 0) ∧ (resetBlock q s).dt = 0 ∧
    (resetBlock q s).st = 0 ∧ (∀ (y : Fin 32) (x : Fin 64), (resetBlock q s).fb.pixel y x = false) ∧
    (resetBlock q s).drawFlag = true ∧ (∀ k : KeyCode, (resetBlock q s).keyPressed k = false) ∧
    (resetBlock q s).quirks = q ∧ (resetBlock q s).fault = .none

/-- 60_exceptions.md R210, R211. That Tick works while a fault is recorded is D5, SoundActive as ST != 0 is D23, the spec's own decisions. -/
def Obligations.TicksCountBothTimersToZero : Prop :=
  ∀ (s : State) (n : Nat),
    tick s = { s with dt := (tick s).dt, st := (tick s).st } ∧
    (tick^[n] s).dt.toNat = s.dt.toNat - n ∧ (tick^[n] s).st.toNat = s.st.toNat - n ∧
    soundActive (tick^[n] s) = decide (n < s.st.toNat)

/-- 40_engine.md R101, R102. That both work while a fault is recorded is D5; the 4-bit key port is D37. -/
def Obligations.LatchAndAcknowledgeWriteOneThing : Prop :=
  ∀ (k : KeyCode) (b : Bool) (s : State),
    (∀ j : KeyCode, (setKeyState k b s).keyPressed j = if j = k then b else s.keyPressed j) ∧
    setKeyState k b s = { s with key := (setKeyState k b s).key } ∧
    acknowledgeDraw s = { s with drawFlag := false }

/-- 60_exceptions.md R202. The codes are the spec's own decision (D6). -/
def Obligations.FaultPortGivesTheCode : Prop :=
  ∀ s : State,
    (s.fault = .none → faultPort s = 0) ∧ (s.fault = .stackOverflow → faultPort s = 1) ∧
    (s.fault = .stackUnderflow → faultPort s = 2) ∧ (s.fault = .unknownOpcode → faultPort s = 3) ∧
    (s.fault = .memoryAddressOutOfRange → faultPort s = 4) ∧ (faultPort s).toNat ≤ 4

/-- 40_engine.md R98, and R90 ('rnd is read only by CXNN'), over the whole Step operation of 00_scope.md R12: halted, faulting or running. The trace as no state is D30, the free input D2, and the field `rnd` the model's own (log 3, log 6). -/
def Obligations.TraceAndUnusedRandomByteChangeNothing : Prop :=
  ∀ (trace trace' : Bool) (b c : Byte) (s t : State), stepOp trace b s = .next t →
    stepOp trace' b s = .next t ∧
    ((∀ x nn, decodeBytes [s.memory.read s.pc.toNat, s.memory.read (s.pc.toNat + 1)] ≠ .ok (.rnd x nn, [])) →
      stepOp trace' c s = .next { t with rnd := c })
end

