-- ==== Sys2Proof/Laws/Encoding.lean ====
section
/-! SUPPORT. The bits of a word made of two bytes, and the fields of an encoded word, format by format (30_encoding.md R72). -/

namespace Sys2Proof

/-! ### A word and its two bytes (20_memory.md R50) -/

theorem getLsbD_wordOfBytes (a b : Byte) (i : Nat) :
    (wordOfBytes a b).getLsbD i = if i < 8 then b.getLsbD i else a.getLsbD (i - 8) := BitVec.getLsbD_append

@[simp] theorem wordOfBytes_high (a b : Byte) : (wordOfBytes a b).extractLsb' 8 8 = a := by
  apply BitVec.eq_of_getLsbD_eq; intro i hi
  simp [getLsbD_wordOfBytes, hi]

@[simp] theorem wordOfBytes_low (a b : Byte) : (wordOfBytes a b).extractLsb' 0 8 = b := by
  apply BitVec.eq_of_getLsbD_eq; intro i hi
  simp [getLsbD_wordOfBytes, hi]

/-- Two words are equal when their high and low bytes are. -/
theorem word_eq_of_bytes {v w : Word} (h : v.extractLsb' 8 8 = w.extractLsb' 8 8)
    (l : v.extractLsb' 0 8 = w.extractLsb' 0 8) : v = w := by
  apply BitVec.eq_of_getLsbD_eq
  intro i hi
  by_cases h8 : i < 8
  · simpa [h8] using congrArg (fun b => b.getLsbD i) l
  · simpa [show i - 8 < 8 by omega, show 8 + (i - 8) = i by omega] using congrArg (fun b => b.getLsbD (i - 8)) h

@[simp] theorem wordOfBytes_bytesOfWord (w : Word) :
    wordOfBytes (w.extractLsb' 8 8) (w.extractLsb' 0 8) = w :=
  word_eq_of_bytes (wordOfBytes_high _ _) (wordOfBytes_low _ _)

/-! ### The nibbles of a byte -/

theorem getLsbD_nibbles (a b : BitVec 4) (i : Nat) :
    (a ++ b : Byte).getLsbD i = if i < 4 then b.getLsbD i else a.getLsbD (i - 4) := BitVec.getLsbD_append

/-! ### The fields of a word of two bytes, whose high byte is op ++ X (formats XNN, XYS, XYN, XS8) -/

@[simp] theorem fieldOp_wordOfBytes (op x : BitVec 4) (b : Byte) : fieldOp (wordOfBytes (op ++ x) b) = op := by
  apply BitVec.eq_of_getLsbD_eq; intro i hi
  simp [fieldOp, getLsbD_wordOfBytes, getLsbD_nibbles, hi, show ¬ 12 + i < 8 by omega, show ¬ 12 + i - 8 < 4 by omega,
    show 12 + i - 8 - 4 = i by omega]

@[simp] theorem fieldX_wordOfBytes (op x : BitVec 4) (b : Byte) : fieldX (wordOfBytes (op ++ x) b) = x := by
  apply BitVec.eq_of_getLsbD_eq; intro i hi
  simp [fieldX, getLsbD_wordOfBytes, getLsbD_nibbles, hi]

@[simp] theorem fieldNN_wordOfBytes (a b : Byte) : fieldNN (wordOfBytes a b) = b := wordOfBytes_low a b

@[simp] theorem fieldY_wordOfBytes (a : Byte) (y n : BitVec 4) : fieldY (wordOfBytes a (y ++ n)) = y := by
  apply BitVec.eq_of_getLsbD_eq; intro i hi
  simp only [fieldY, BitVec.getLsbD_extractLsb', getLsbD_wordOfBytes, getLsbD_nibbles]
  simp [hi, show 4 + i < 8 by omega]

@[simp] theorem fieldN_wordOfBytes (a : Byte) (y n : BitVec 4) : fieldN (wordOfBytes a (y ++ n)) = n := by
  apply BitVec.eq_of_getLsbD_eq; intro i hi
  simp only [fieldN, BitVec.getLsbD_extractLsb', getLsbD_wordOfBytes, getLsbD_nibbles]
  simp [hi, show i < 8 by omega]

/-! ### The fields of format NNN -/

theorem getLsbD_encodeNNN (op : BitVec 4) (nnn : BitVec 12) (i : Nat) :
    (encodeNNN op nnn).getLsbD i = if i < 12 then nnn.getLsbD i else op.getLsbD (i - 12) := BitVec.getLsbD_append

@[simp] theorem fieldOp_encodeNNN (op : BitVec 4) (nnn : BitVec 12) : fieldOp (encodeNNN op nnn) = op := by
  apply BitVec.eq_of_getLsbD_eq; intro i hi
  simp [fieldOp, getLsbD_encodeNNN, hi]

@[simp] theorem fieldNNN_encodeNNN (op : BitVec 4) (nnn : BitVec 12) : fieldNNN (encodeNNN op nnn) = nnn := by
  apply BitVec.eq_of_getLsbD_eq; intro i hi
  simp [fieldNNN, getLsbD_encodeNNN, hi]

/-- Format NNN as two bytes: op and NNN[11:8], then NNN[7:0] (30_encoding.md R72). -/
theorem encodeNNN_eq_bytes (op : BitVec 4) (nnn : BitVec 12) :
    encodeNNN op nnn = wordOfBytes (op ++ nnn.extractLsb' 8 4) (nnn.extractLsb' 0 8) := by
  apply BitVec.eq_of_getLsbD_eq
  intro i hi
  rw [getLsbD_encodeNNN, getLsbD_wordOfBytes, getLsbD_nibbles]
  by_cases h8 : i < 8
  · simp [h8, show i < 12 by omega]
  · by_cases h12 : i < 12
    · simp [h8, h12, show i - 8 < 4 by omega, show 8 + (i - 8) = i by omega]
    · simp [h8, h12, show ¬ i - 8 < 4 by omega, show i - 8 - 4 = i - 12 by omega]

end Sys2Proof
end

