-- ==== Sys2Proof/Laws/Memory.lean ====
section
/-! SUPPORT. What the memory operations do, said once: a read after a write, the canonical form, blocks of bytes, the range
check, the fetch. -/

namespace Sys2Proof.Machine

/-! ### Cell lists -/

theorem Memory.lookup_filter_ne (l : List Host.Cell) {a b : Nat} (h : b ≠ a) :
    Memory.lookup (l.filter (fun c => c.1 != a)) b = Memory.lookup l b := by
  induction l with
  | nil => rfl
  | cons c l ih =>
    by_cases hc : c.1 = a
    · have hb : c.1 ≠ b := fun e => h (e.symm.trans hc)
      rw [List.filter_cons_of_neg (by simp [hc]), ih, Memory.lookup, if_neg hb]
    · rw [List.filter_cons_of_pos (by simp [hc])]
      by_cases hb : c.1 = b <;> simp [Memory.lookup, hb, ih]

theorem Memory.lookup_filter_self (l : List Host.Cell) (a : Nat) :
    Memory.lookup (l.filter (fun c => c.1 != a)) a = none := by
  induction l with
  | nil => rfl
  | cons c l ih =>
    by_cases hc : c.1 = a
    · rw [List.filter_cons_of_neg (by simp [hc]), ih]
    · rw [List.filter_cons_of_pos (by simp [hc]), Memory.lookup, if_neg hc, ih]

theorem Memory.lookup_insertCell_ne (l : List Host.Cell) {a b : Nat} (v : Byte) (h : b ≠ a) :
    Memory.lookup (Memory.insertCell a v l) b = Memory.lookup l b := by
  induction l with
  | nil => simp [Memory.insertCell, Memory.lookup, h.symm]
  | cons c l ih =>
    by_cases hc : a < c.1
    · simp [Memory.insertCell, Memory.lookup, hc, h.symm]
    · simp only [Memory.insertCell, hc, if_false, Memory.lookup, ih]

theorem Memory.lookup_insertCell_self (l : List Host.Cell) (a : Nat) (v : Byte)
    (h : Memory.lookup l a = none) : Memory.lookup (Memory.insertCell a v l) a = some v := by
  induction l with
  | nil => simp [Memory.insertCell, Memory.lookup]
  | cons c l ih =>
    by_cases hb : c.1 = a
    · simp [Memory.lookup, hb] at h
    · rw [Memory.lookup, if_neg hb] at h
      by_cases hc : a < c.1
      · simp [Memory.insertCell, Memory.lookup, hc]
      · simp [Memory.insertCell, Memory.lookup, hc, hb, ih h]

theorem Memory.mem_insertCell {a : Nat} {v : Byte} {l : List Host.Cell} {c : Host.Cell} :
    c ∈ Memory.insertCell a v l ↔ c = (a, v) ∨ c ∈ l := by
  induction l with
  | nil => simp [Memory.insertCell]
  | cons d l ih =>
    by_cases hd : a < d.1
    · simp [Memory.insertCell, hd]
    · simp only [Memory.insertCell, hd, if_false, List.mem_cons, ih]; tauto

theorem Memory.insertCell_rising {a : Nat} {v : Byte} {l : List Host.Cell}
    (hl : l.Pairwise (fun c d => c.1 < d.1)) (ha : ∀ c ∈ l, c.1 ≠ a) :
    (Memory.insertCell a v l).Pairwise (fun c d => c.1 < d.1) := by
  induction l with
  | nil => simp [Memory.insertCell]
  | cons d l ih =>
    obtain ⟨hd, hl⟩ := List.pairwise_cons.1 hl
    by_cases h : a < d.1
    · simp only [Memory.insertCell, h, if_true]
      refine List.pairwise_cons.2 ⟨fun c hc => ?_, List.pairwise_cons.2 ⟨hd, hl⟩⟩
      rcases List.mem_cons.1 hc with rfl | hc
      · exact h
      · exact h.trans (hd c hc)
    · simp only [Memory.insertCell, h, if_false]
      refine List.pairwise_cons.2 ⟨fun c hc => ?_, ih hl fun c hc => ha c (List.mem_cons_of_mem _ hc)⟩
      rcases Memory.mem_insertCell.1 hc with rfl | hc
      · exact lt_of_le_of_ne (Nat.le_of_not_lt h) (ha d List.mem_cons_self)
      · exact hd c hc

/-! ### One byte -/

@[simp] theorem Memory.write_font (m : Memory) (a : Nat) (v : Byte) : (m.write a v).font = m.font := rfl

@[simp] theorem Memory.write_background (m : Memory) (a b : Nat) (v : Byte) :
    (m.write a v).background b = m.background b := rfl

/-- A read after a write of the same address gives the byte written, on every memory. -/
@[simp] theorem Memory.read_write_same (m : Memory) (a : Nat) (v : Byte) : (m.write a v).read a = v := by
  have hn := Memory.lookup_filter_self m.cells a
  by_cases h : v = m.background a
  · simp only [Memory.read, Memory.write, if_pos h, hn]
    simpa [Memory.background] using h.symm
  · simp only [Memory.read, Memory.write, if_neg h, Memory.lookup_insertCell_self _ _ _ hn, Option.getD_some]

/-- A write leaves every other address as it was, on every memory. -/
theorem Memory.read_write_ne (m : Memory) {a b : Nat} (v : Byte) (h : b ≠ a) : (m.write a v).read b = m.read b := by
  have hn := Memory.lookup_filter_ne m.cells h
  by_cases hv : v = m.background a
  · simp only [Memory.read, Memory.write, if_pos hv, hn]
    rfl
  · simp only [Memory.read, Memory.write, if_neg hv, Memory.lookup_insertCell_ne _ _ h, hn]
    rfl

theorem Memory.read_write (m : Memory) (a b : Nat) (v : Byte) :
    (m.write a v).read b = if b = a then v else m.read b := by
  by_cases h : b = a
  · subst h; simp
  · simp [h, Memory.read_write_ne m v h]

/-- A write inside the address space keeps the canonical form. -/
theorem Memory.write_wf {m : Memory} (hm : m.wf) {a : Nat} (ha : a < 4096) (v : Byte) : (m.write a v).wf := by
  obtain ⟨hr, hc⟩ := hm
  have hr' : (m.cells.filter (fun c => c.1 != a)).Pairwise (fun c d => c.1 < d.1) := hr.filter _
  have hc' : ∀ c ∈ m.cells.filter (fun c => c.1 != a), c.1 < Config.memorySize ∧ c.2 ≠ m.background c.1 :=
    fun c h => hc c (List.mem_filter.1 h).1
  have hne : ∀ c ∈ m.cells.filter (fun c => c.1 != a), c.1 ≠ a := fun c h => by simpa using (List.mem_filter.1 h).2
  unfold Memory.wf
  simp only [Memory.write_background]
  by_cases h : v = m.background a
  · simp only [Memory.write, if_pos h]; exact ⟨hr', hc'⟩
  · simp only [Memory.write, if_neg h]
    refine ⟨Memory.insertCell_rising hr' hne, fun c hmem => ?_⟩
    rcases Memory.mem_insertCell.1 hmem with rfl | hmem
    · exact ⟨ha, h⟩
    · exact hc' c hmem

/-! ### Blocks of bytes -/

@[simp] theorem Memory.writeBytes_font (m : Memory) (a : Nat) (bs : List Byte) :
    (m.writeBytes a bs).font = m.font := by
  induction bs generalizing m a with
  | nil => rfl
  | cons b bs ih => simp [Memory.writeBytes, ih]

/-- Storing a block changes only the addresses of the block. -/
theorem Memory.read_writeBytes_outside (m : Memory) {a b : Nat} (bs : List Byte) (h : b < a ∨ a + bs.length ≤ b) :
    (m.writeBytes a bs).read b = m.read b := by
  induction bs generalizing m a with
  | nil => rfl
  | cons v bs ih =>
    have hlen : (v :: bs).length = bs.length + 1 := rfl
    rw [Memory.writeBytes, ih (m.write a v) (by omega), Memory.read_write_ne m v (by omega)]

/-- Inside the block a read gives the byte stored there. -/
theorem Memory.read_writeBytes_inside (m : Memory) (a : Nat) (bs : List Byte) (j : Nat) (h : j < bs.length) :
    (m.writeBytes a bs).read (a + j) = bs[j] := by
  induction bs generalizing m a j with
  | nil => simp at h
  | cons v bs ih =>
    cases j with
    | zero => rw [Memory.writeBytes, Nat.add_zero, Memory.read_writeBytes_outside _ bs (by omega)]; simp
    | succ j =>
      have := ih (m.write a v) (a + 1) j (by simpa using h)
      rw [Memory.writeBytes, show a + (j + 1) = a + 1 + j by omega, this]; simp

/-- Storing a block inside the address space keeps the canonical form. -/
theorem Memory.writeBytes_wf {m : Memory} (hm : m.wf) {a : Nat} (bs : List Byte) (h : a + bs.length ≤ 4096) :
    (m.writeBytes a bs).wf := by
  induction bs generalizing m a with
  | nil => exact hm
  | cons v bs ih =>
    simp only [List.length_cons] at h
    exact ih (Memory.write_wf hm (by omega) v) (by omega)

@[simp] theorem Memory.readBytes_length (m : Memory) (a n : Nat) : (m.readBytes a n).length = n := by
  induction n generalizing a with
  | zero => rfl
  | succ n ih => simp [Memory.readBytes, ih]

theorem Memory.readBytes_getElem (m : Memory) (a n j : Nat) (h : j < (m.readBytes a n).length) :
    (m.readBytes a n)[j] = m.read (a + j) := by
  induction n generalizing a j with
  | zero => simp [Memory.readBytes] at h
  | succ n ih =>
    cases j with
    | zero => simp [Memory.readBytes]
    | succ j =>
      simp only [Memory.readBytes, List.getElem_cons_succ]
      rw [ih, show a + 1 + j = a + (j + 1) by omega]

/-! ### The range check and the fetch -/

/-- The range check of 20_memory.md R53 in its own words: no address of the set is above 0xFFF. -/
theorem inRange_iff (base len : Nat) : inRange base len = true ↔ len = 0 ∨ base + len ≤ 4096 := by
  simp [inRange]

theorem State.fetch_of_le {s : State} (h : s.pc.toNat ≤ 0xFFE) :
    s.fetch = some (wordOfBytes (s.memory.read s.pc.toNat) (s.memory.read (s.pc.toNat + 1))) := by
  have : inRange s.pc.toNat 2 = true := (inRange_iff _ _).2 (by omega)
  simp [State.fetch, this]

theorem State.fetch_of_gt {s : State} (h : 0xFFE < s.pc.toNat) : s.fetch = none := by
  have : ¬ inRange s.pc.toNat 2 = true := fun e => by have := (inRange_iff _ _).1 e; omega
  simp [State.fetch, this]

end Sys2Proof.Machine
end

