-- ==== Sys2Proof/Laws/State.lean ====
section
/-! SUPPORT. One lemma per field per update of State, so that no later proof unfolds a record update. -/

namespace Sys2Proof.Machine

/-! #### setReg -/

@[simp] theorem State.setReg_memory (s : State) (x : RegIndex) (b : Byte) : (s.setReg x b).memory = s.memory := rfl
@[simp] theorem State.setReg_i (s : State) (x : RegIndex) (b : Byte) : (s.setReg x b).i = s.i := rfl
@[simp] theorem State.setReg_pc (s : State) (x : RegIndex) (b : Byte) : (s.setReg x b).pc = s.pc := rfl
@[simp] theorem State.setReg_sp (s : State) (x : RegIndex) (b : Byte) : (s.setReg x b).sp = s.sp := rfl
@[simp] theorem State.setReg_stack (s : State) (x : RegIndex) (b : Byte) : (s.setReg x b).stack = s.stack := rfl
@[simp] theorem State.setReg_dt (s : State) (x : RegIndex) (b : Byte) : (s.setReg x b).dt = s.dt := rfl
@[simp] theorem State.setReg_st (s : State) (x : RegIndex) (b : Byte) : (s.setReg x b).st = s.st := rfl
@[simp] theorem State.setReg_fb (s : State) (x : RegIndex) (b : Byte) : (s.setReg x b).fb = s.fb := rfl
@[simp] theorem State.setReg_key (s : State) (x : RegIndex) (b : Byte) : (s.setReg x b).key = s.key := rfl
@[simp] theorem State.setReg_drawFlag (s : State) (x : RegIndex) (b : Byte) : (s.setReg x b).drawFlag = s.drawFlag := rfl
@[simp] theorem State.setReg_quirks (s : State) (x : RegIndex) (b : Byte) : (s.setReg x b).quirks = s.quirks := rfl
@[simp] theorem State.setReg_fault (s : State) (x : RegIndex) (b : Byte) : (s.setReg x b).fault = s.fault := rfl
@[simp] theorem State.setReg_rnd (s : State) (x : RegIndex) (b : Byte) : (s.setReg x b).rnd = s.rnd := rfl
@[simp] theorem State.setReg_draws (s : State) (x : RegIndex) (b : Byte) : (s.setReg x b).draws = s.draws := rfl

/-! #### setI -/

@[simp] theorem State.setI_memory (s : State) (a : Word) : (s.setI a).memory = s.memory := rfl
@[simp] theorem State.setI_v (s : State) (a : Word) : (s.setI a).v = s.v := rfl
@[simp] theorem State.setI_i (s : State) (a : Word) : (s.setI a).i = a := rfl
@[simp] theorem State.setI_pc (s : State) (a : Word) : (s.setI a).pc = s.pc := rfl
@[simp] theorem State.setI_sp (s : State) (a : Word) : (s.setI a).sp = s.sp := rfl
@[simp] theorem State.setI_stack (s : State) (a : Word) : (s.setI a).stack = s.stack := rfl
@[simp] theorem State.setI_dt (s : State) (a : Word) : (s.setI a).dt = s.dt := rfl
@[simp] theorem State.setI_st (s : State) (a : Word) : (s.setI a).st = s.st := rfl
@[simp] theorem State.setI_fb (s : State) (a : Word) : (s.setI a).fb = s.fb := rfl
@[simp] theorem State.setI_key (s : State) (a : Word) : (s.setI a).key = s.key := rfl
@[simp] theorem State.setI_drawFlag (s : State) (a : Word) : (s.setI a).drawFlag = s.drawFlag := rfl
@[simp] theorem State.setI_quirks (s : State) (a : Word) : (s.setI a).quirks = s.quirks := rfl
@[simp] theorem State.setI_fault (s : State) (a : Word) : (s.setI a).fault = s.fault := rfl
@[simp] theorem State.setI_rnd (s : State) (a : Word) : (s.setI a).rnd = s.rnd := rfl
@[simp] theorem State.setI_draws (s : State) (a : Word) : (s.setI a).draws = s.draws := rfl

/-! #### setPc -/

@[simp] theorem State.setPc_memory (s : State) (a : Word) : (s.setPc a).memory = s.memory := rfl
@[simp] theorem State.setPc_v (s : State) (a : Word) : (s.setPc a).v = s.v := rfl
@[simp] theorem State.setPc_i (s : State) (a : Word) : (s.setPc a).i = s.i := rfl
@[simp] theorem State.setPc_pc (s : State) (a : Word) : (s.setPc a).pc = a := rfl
@[simp] theorem State.setPc_sp (s : State) (a : Word) : (s.setPc a).sp = s.sp := rfl
@[simp] theorem State.setPc_stack (s : State) (a : Word) : (s.setPc a).stack = s.stack := rfl
@[simp] theorem State.setPc_dt (s : State) (a : Word) : (s.setPc a).dt = s.dt := rfl
@[simp] theorem State.setPc_st (s : State) (a : Word) : (s.setPc a).st = s.st := rfl
@[simp] theorem State.setPc_fb (s : State) (a : Word) : (s.setPc a).fb = s.fb := rfl
@[simp] theorem State.setPc_key (s : State) (a : Word) : (s.setPc a).key = s.key := rfl
@[simp] theorem State.setPc_drawFlag (s : State) (a : Word) : (s.setPc a).drawFlag = s.drawFlag := rfl
@[simp] theorem State.setPc_quirks (s : State) (a : Word) : (s.setPc a).quirks = s.quirks := rfl
@[simp] theorem State.setPc_fault (s : State) (a : Word) : (s.setPc a).fault = s.fault := rfl
@[simp] theorem State.setPc_rnd (s : State) (a : Word) : (s.setPc a).rnd = s.rnd := rfl
@[simp] theorem State.setPc_draws (s : State) (a : Word) : (s.setPc a).draws = s.draws := rfl

/-! #### advance -/

@[simp] theorem State.advance_memory (s : State) : (s.advance).memory = s.memory := rfl
@[simp] theorem State.advance_v (s : State) : (s.advance).v = s.v := rfl
@[simp] theorem State.advance_i (s : State) : (s.advance).i = s.i := rfl
@[simp] theorem State.advance_pc (s : State) : (s.advance).pc = s.pc + 2 := rfl
@[simp] theorem State.advance_sp (s : State) : (s.advance).sp = s.sp := rfl
@[simp] theorem State.advance_stack (s : State) : (s.advance).stack = s.stack := rfl
@[simp] theorem State.advance_dt (s : State) : (s.advance).dt = s.dt := rfl
@[simp] theorem State.advance_st (s : State) : (s.advance).st = s.st := rfl
@[simp] theorem State.advance_fb (s : State) : (s.advance).fb = s.fb := rfl
@[simp] theorem State.advance_key (s : State) : (s.advance).key = s.key := rfl
@[simp] theorem State.advance_drawFlag (s : State) : (s.advance).drawFlag = s.drawFlag := rfl
@[simp] theorem State.advance_quirks (s : State) : (s.advance).quirks = s.quirks := rfl
@[simp] theorem State.advance_fault (s : State) : (s.advance).fault = s.fault := rfl
@[simp] theorem State.advance_rnd (s : State) : (s.advance).rnd = s.rnd := rfl
@[simp] theorem State.advance_draws (s : State) : (s.advance).draws = s.draws := rfl

/-! #### skipIf -/

@[simp] theorem State.skipIf_memory (s : State) (c : Bool) : (s.skipIf c).memory = s.memory := rfl
@[simp] theorem State.skipIf_v (s : State) (c : Bool) : (s.skipIf c).v = s.v := rfl
@[simp] theorem State.skipIf_i (s : State) (c : Bool) : (s.skipIf c).i = s.i := rfl
@[simp] theorem State.skipIf_pc (s : State) (c : Bool) : (s.skipIf c).pc = if c then s.pc + 4 else s.pc + 2 := rfl
@[simp] theorem State.skipIf_sp (s : State) (c : Bool) : (s.skipIf c).sp = s.sp := rfl
@[simp] theorem State.skipIf_stack (s : State) (c : Bool) : (s.skipIf c).stack = s.stack := rfl
@[simp] theorem State.skipIf_dt (s : State) (c : Bool) : (s.skipIf c).dt = s.dt := rfl
@[simp] theorem State.skipIf_st (s : State) (c : Bool) : (s.skipIf c).st = s.st := rfl
@[simp] theorem State.skipIf_fb (s : State) (c : Bool) : (s.skipIf c).fb = s.fb := rfl
@[simp] theorem State.skipIf_key (s : State) (c : Bool) : (s.skipIf c).key = s.key := rfl
@[simp] theorem State.skipIf_drawFlag (s : State) (c : Bool) : (s.skipIf c).drawFlag = s.drawFlag := rfl
@[simp] theorem State.skipIf_quirks (s : State) (c : Bool) : (s.skipIf c).quirks = s.quirks := rfl
@[simp] theorem State.skipIf_fault (s : State) (c : Bool) : (s.skipIf c).fault = s.fault := rfl
@[simp] theorem State.skipIf_rnd (s : State) (c : Bool) : (s.skipIf c).rnd = s.rnd := rfl
@[simp] theorem State.skipIf_draws (s : State) (c : Bool) : (s.skipIf c).draws = s.draws := rfl

/-! #### setDt -/

@[simp] theorem State.setDt_memory (s : State) (b : Byte) : (s.setDt b).memory = s.memory := rfl
@[simp] theorem State.setDt_v (s : State) (b : Byte) : (s.setDt b).v = s.v := rfl
@[simp] theorem State.setDt_i (s : State) (b : Byte) : (s.setDt b).i = s.i := rfl
@[simp] theorem State.setDt_pc (s : State) (b : Byte) : (s.setDt b).pc = s.pc := rfl
@[simp] theorem State.setDt_sp (s : State) (b : Byte) : (s.setDt b).sp = s.sp := rfl
@[simp] theorem State.setDt_stack (s : State) (b : Byte) : (s.setDt b).stack = s.stack := rfl
@[simp] theorem State.setDt_dt (s : State) (b : Byte) : (s.setDt b).dt = b := rfl
@[simp] theorem State.setDt_st (s : State) (b : Byte) : (s.setDt b).st = s.st := rfl
@[simp] theorem State.setDt_fb (s : State) (b : Byte) : (s.setDt b).fb = s.fb := rfl
@[simp] theorem State.setDt_key (s : State) (b : Byte) : (s.setDt b).key = s.key := rfl
@[simp] theorem State.setDt_drawFlag (s : State) (b : Byte) : (s.setDt b).drawFlag = s.drawFlag := rfl
@[simp] theorem State.setDt_quirks (s : State) (b : Byte) : (s.setDt b).quirks = s.quirks := rfl
@[simp] theorem State.setDt_fault (s : State) (b : Byte) : (s.setDt b).fault = s.fault := rfl
@[simp] theorem State.setDt_rnd (s : State) (b : Byte) : (s.setDt b).rnd = s.rnd := rfl
@[simp] theorem State.setDt_draws (s : State) (b : Byte) : (s.setDt b).draws = s.draws := rfl

/-! #### setSt -/

@[simp] theorem State.setSt_memory (s : State) (b : Byte) : (s.setSt b).memory = s.memory := rfl
@[simp] theorem State.setSt_v (s : State) (b : Byte) : (s.setSt b).v = s.v := rfl
@[simp] theorem State.setSt_i (s : State) (b : Byte) : (s.setSt b).i = s.i := rfl
@[simp] theorem State.setSt_pc (s : State) (b : Byte) : (s.setSt b).pc = s.pc := rfl
@[simp] theorem State.setSt_sp (s : State) (b : Byte) : (s.setSt b).sp = s.sp := rfl
@[simp] theorem State.setSt_stack (s : State) (b : Byte) : (s.setSt b).stack = s.stack := rfl
@[simp] theorem State.setSt_dt (s : State) (b : Byte) : (s.setSt b).dt = s.dt := rfl
@[simp] theorem State.setSt_st (s : State) (b : Byte) : (s.setSt b).st = b := rfl
@[simp] theorem State.setSt_fb (s : State) (b : Byte) : (s.setSt b).fb = s.fb := rfl
@[simp] theorem State.setSt_key (s : State) (b : Byte) : (s.setSt b).key = s.key := rfl
@[simp] theorem State.setSt_drawFlag (s : State) (b : Byte) : (s.setSt b).drawFlag = s.drawFlag := rfl
@[simp] theorem State.setSt_quirks (s : State) (b : Byte) : (s.setSt b).quirks = s.quirks := rfl
@[simp] theorem State.setSt_fault (s : State) (b : Byte) : (s.setSt b).fault = s.fault := rfl
@[simp] theorem State.setSt_rnd (s : State) (b : Byte) : (s.setSt b).rnd = s.rnd := rfl
@[simp] theorem State.setSt_draws (s : State) (b : Byte) : (s.setSt b).draws = s.draws := rfl

/-! #### setMemory -/

@[simp] theorem State.setMemory_memory (s : State) (m : Memory) : (s.setMemory m).memory = m := rfl
@[simp] theorem State.setMemory_v (s : State) (m : Memory) : (s.setMemory m).v = s.v := rfl
@[simp] theorem State.setMemory_i (s : State) (m : Memory) : (s.setMemory m).i = s.i := rfl
@[simp] theorem State.setMemory_pc (s : State) (m : Memory) : (s.setMemory m).pc = s.pc := rfl
@[simp] theorem State.setMemory_sp (s : State) (m : Memory) : (s.setMemory m).sp = s.sp := rfl
@[simp] theorem State.setMemory_stack (s : State) (m : Memory) : (s.setMemory m).stack = s.stack := rfl
@[simp] theorem State.setMemory_dt (s : State) (m : Memory) : (s.setMemory m).dt = s.dt := rfl
@[simp] theorem State.setMemory_st (s : State) (m : Memory) : (s.setMemory m).st = s.st := rfl
@[simp] theorem State.setMemory_fb (s : State) (m : Memory) : (s.setMemory m).fb = s.fb := rfl
@[simp] theorem State.setMemory_key (s : State) (m : Memory) : (s.setMemory m).key = s.key := rfl
@[simp] theorem State.setMemory_drawFlag (s : State) (m : Memory) : (s.setMemory m).drawFlag = s.drawFlag := rfl
@[simp] theorem State.setMemory_quirks (s : State) (m : Memory) : (s.setMemory m).quirks = s.quirks := rfl
@[simp] theorem State.setMemory_fault (s : State) (m : Memory) : (s.setMemory m).fault = s.fault := rfl
@[simp] theorem State.setMemory_rnd (s : State) (m : Memory) : (s.setMemory m).rnd = s.rnd := rfl
@[simp] theorem State.setMemory_draws (s : State) (m : Memory) : (s.setMemory m).draws = s.draws := rfl

/-! #### setRegBytes -/

@[simp] theorem State.setRegBytes_memory (s : State) (bs : List Byte) : (s.setRegBytes bs).memory = s.memory := rfl
@[simp] theorem State.setRegBytes_v (s : State) (bs : List Byte) : (s.setRegBytes bs).v = loadVector s.v 0 bs := rfl
@[simp] theorem State.setRegBytes_i (s : State) (bs : List Byte) : (s.setRegBytes bs).i = s.i := rfl
@[simp] theorem State.setRegBytes_pc (s : State) (bs : List Byte) : (s.setRegBytes bs).pc = s.pc := rfl
@[simp] theorem State.setRegBytes_sp (s : State) (bs : List Byte) : (s.setRegBytes bs).sp = s.sp := rfl
@[simp] theorem State.setRegBytes_stack (s : State) (bs : List Byte) : (s.setRegBytes bs).stack = s.stack := rfl
@[simp] theorem State.setRegBytes_dt (s : State) (bs : List Byte) : (s.setRegBytes bs).dt = s.dt := rfl
@[simp] theorem State.setRegBytes_st (s : State) (bs : List Byte) : (s.setRegBytes bs).st = s.st := rfl
@[simp] theorem State.setRegBytes_fb (s : State) (bs : List Byte) : (s.setRegBytes bs).fb = s.fb := rfl
@[simp] theorem State.setRegBytes_key (s : State) (bs : List Byte) : (s.setRegBytes bs).key = s.key := rfl
@[simp] theorem State.setRegBytes_drawFlag (s : State) (bs : List Byte) : (s.setRegBytes bs).drawFlag = s.drawFlag := rfl
@[simp] theorem State.setRegBytes_quirks (s : State) (bs : List Byte) : (s.setRegBytes bs).quirks = s.quirks := rfl
@[simp] theorem State.setRegBytes_fault (s : State) (bs : List Byte) : (s.setRegBytes bs).fault = s.fault := rfl
@[simp] theorem State.setRegBytes_rnd (s : State) (bs : List Byte) : (s.setRegBytes bs).rnd = s.rnd := rfl
@[simp] theorem State.setRegBytes_draws (s : State) (bs : List Byte) : (s.setRegBytes bs).draws = s.draws := rfl

/-! #### nextDraw -/

@[simp] theorem State.nextDraw_memory (s : State) : (s.nextDraw).memory = s.memory := rfl
@[simp] theorem State.nextDraw_v (s : State) : (s.nextDraw).v = s.v := rfl
@[simp] theorem State.nextDraw_i (s : State) : (s.nextDraw).i = s.i := rfl
@[simp] theorem State.nextDraw_pc (s : State) : (s.nextDraw).pc = s.pc := rfl
@[simp] theorem State.nextDraw_sp (s : State) : (s.nextDraw).sp = s.sp := rfl
@[simp] theorem State.nextDraw_stack (s : State) : (s.nextDraw).stack = s.stack := rfl
@[simp] theorem State.nextDraw_dt (s : State) : (s.nextDraw).dt = s.dt := rfl
@[simp] theorem State.nextDraw_st (s : State) : (s.nextDraw).st = s.st := rfl
@[simp] theorem State.nextDraw_fb (s : State) : (s.nextDraw).fb = s.fb := rfl
@[simp] theorem State.nextDraw_key (s : State) : (s.nextDraw).key = s.key := rfl
@[simp] theorem State.nextDraw_drawFlag (s : State) : (s.nextDraw).drawFlag = s.drawFlag := rfl
@[simp] theorem State.nextDraw_quirks (s : State) : (s.nextDraw).quirks = s.quirks := rfl
@[simp] theorem State.nextDraw_fault (s : State) : (s.nextDraw).fault = s.fault := rfl
@[simp] theorem State.nextDraw_rnd (s : State) : (s.nextDraw).rnd = Config.freeRnd s.draws := rfl
@[simp] theorem State.nextDraw_draws (s : State) : (s.nextDraw).draws = s.draws + 1 := rfl

/-! #### setDisplay -/

@[simp] theorem State.setDisplay_memory (s : State) (f : Framebuffer) : (s.setDisplay f).memory = s.memory := rfl
@[simp] theorem State.setDisplay_v (s : State) (f : Framebuffer) : (s.setDisplay f).v = s.v := rfl
@[simp] theorem State.setDisplay_i (s : State) (f : Framebuffer) : (s.setDisplay f).i = s.i := rfl
@[simp] theorem State.setDisplay_pc (s : State) (f : Framebuffer) : (s.setDisplay f).pc = s.pc := rfl
@[simp] theorem State.setDisplay_sp (s : State) (f : Framebuffer) : (s.setDisplay f).sp = s.sp := rfl
@[simp] theorem State.setDisplay_stack (s : State) (f : Framebuffer) : (s.setDisplay f).stack = s.stack := rfl
@[simp] theorem State.setDisplay_dt (s : State) (f : Framebuffer) : (s.setDisplay f).dt = s.dt := rfl
@[simp] theorem State.setDisplay_st (s : State) (f : Framebuffer) : (s.setDisplay f).st = s.st := rfl
@[simp] theorem State.setDisplay_fb (s : State) (f : Framebuffer) : (s.setDisplay f).fb = f := rfl
@[simp] theorem State.setDisplay_key (s : State) (f : Framebuffer) : (s.setDisplay f).key = s.key := rfl
@[simp] theorem State.setDisplay_drawFlag (s : State) (f : Framebuffer) : (s.setDisplay f).drawFlag = true := rfl
@[simp] theorem State.setDisplay_quirks (s : State) (f : Framebuffer) : (s.setDisplay f).quirks = s.quirks := rfl
@[simp] theorem State.setDisplay_fault (s : State) (f : Framebuffer) : (s.setDisplay f).fault = s.fault := rfl
@[simp] theorem State.setDisplay_rnd (s : State) (f : Framebuffer) : (s.setDisplay f).rnd = s.rnd := rfl
@[simp] theorem State.setDisplay_draws (s : State) (f : Framebuffer) : (s.setDisplay f).draws = s.draws := rfl

/-! #### setFlag -/

@[simp] theorem State.setFlag_memory (s : State) (f : Bool) : (s.setFlag f).memory = s.memory := rfl
@[simp] theorem State.setFlag_i (s : State) (f : Bool) : (s.setFlag f).i = s.i := rfl
@[simp] theorem State.setFlag_pc (s : State) (f : Bool) : (s.setFlag f).pc = s.pc := rfl
@[simp] theorem State.setFlag_sp (s : State) (f : Bool) : (s.setFlag f).sp = s.sp := rfl
@[simp] theorem State.setFlag_stack (s : State) (f : Bool) : (s.setFlag f).stack = s.stack := rfl
@[simp] theorem State.setFlag_dt (s : State) (f : Bool) : (s.setFlag f).dt = s.dt := rfl
@[simp] theorem State.setFlag_st (s : State) (f : Bool) : (s.setFlag f).st = s.st := rfl
@[simp] theorem State.setFlag_fb (s : State) (f : Bool) : (s.setFlag f).fb = s.fb := rfl
@[simp] theorem State.setFlag_key (s : State) (f : Bool) : (s.setFlag f).key = s.key := rfl
@[simp] theorem State.setFlag_drawFlag (s : State) (f : Bool) : (s.setFlag f).drawFlag = s.drawFlag := rfl
@[simp] theorem State.setFlag_quirks (s : State) (f : Bool) : (s.setFlag f).quirks = s.quirks := rfl
@[simp] theorem State.setFlag_fault (s : State) (f : Bool) : (s.setFlag f).fault = s.fault := rfl
@[simp] theorem State.setFlag_rnd (s : State) (f : Bool) : (s.setFlag f).rnd = s.rnd := rfl
@[simp] theorem State.setFlag_draws (s : State) (f : Bool) : (s.setFlag f).draws = s.draws := rfl

/-! #### setFlagIf -/

@[simp] theorem State.setFlagIf_memory (s : State) (q f : Bool) : (s.setFlagIf q f).memory = s.memory := by cases q <;> rfl
@[simp] theorem State.setFlagIf_i (s : State) (q f : Bool) : (s.setFlagIf q f).i = s.i := by cases q <;> rfl
@[simp] theorem State.setFlagIf_pc (s : State) (q f : Bool) : (s.setFlagIf q f).pc = s.pc := by cases q <;> rfl
@[simp] theorem State.setFlagIf_sp (s : State) (q f : Bool) : (s.setFlagIf q f).sp = s.sp := by cases q <;> rfl
@[simp] theorem State.setFlagIf_stack (s : State) (q f : Bool) : (s.setFlagIf q f).stack = s.stack := by cases q <;> rfl
@[simp] theorem State.setFlagIf_dt (s : State) (q f : Bool) : (s.setFlagIf q f).dt = s.dt := by cases q <;> rfl
@[simp] theorem State.setFlagIf_st (s : State) (q f : Bool) : (s.setFlagIf q f).st = s.st := by cases q <;> rfl
@[simp] theorem State.setFlagIf_fb (s : State) (q f : Bool) : (s.setFlagIf q f).fb = s.fb := by cases q <;> rfl
@[simp] theorem State.setFlagIf_key (s : State) (q f : Bool) : (s.setFlagIf q f).key = s.key := by cases q <;> rfl
@[simp] theorem State.setFlagIf_drawFlag (s : State) (q f : Bool) : (s.setFlagIf q f).drawFlag = s.drawFlag := by cases q <;> rfl
@[simp] theorem State.setFlagIf_quirks (s : State) (q f : Bool) : (s.setFlagIf q f).quirks = s.quirks := by cases q <;> rfl
@[simp] theorem State.setFlagIf_fault (s : State) (q f : Bool) : (s.setFlagIf q f).fault = s.fault := by cases q <;> rfl
@[simp] theorem State.setFlagIf_rnd (s : State) (q f : Bool) : (s.setFlagIf q f).rnd = s.rnd := by cases q <;> rfl
@[simp] theorem State.setFlagIf_draws (s : State) (q f : Bool) : (s.setFlagIf q f).draws = s.draws := by cases q <;> rfl

/-! #### General registers through every update -/

@[simp] theorem State.reg_setReg (s : State) (x k : RegIndex) (b : Byte) :
    (s.setReg x b).reg k = if k = x then b else s.reg k := by
  by_cases h : k = x
  · subst h; simp [State.reg, State.setReg]
  · have h' : x.toNat ≠ k.toNat := fun e => h (BitVec.eq_of_toNat_eq e.symm)
    simp [State.reg, State.setReg, h, h']

@[simp] theorem State.reg_setFlag (s : State) (k : RegIndex) (f : Bool) :
    (s.setFlag f).reg k = if k = 0xF then flagByte f else s.reg k := by
  simp only [State.setFlag, State.reg_setReg]

@[simp] theorem State.reg_setFlagIf (s : State) (k : RegIndex) (q f : Bool) :
    (s.setFlagIf q f).reg k = if q = true ∧ k = 0xF then flagByte f else s.reg k := by
  cases q <;> simp [State.setFlagIf]

@[simp] theorem State.reg_setI (s : State) (a : Word) (k : RegIndex) : (s.setI a).reg k = s.reg k := rfl
@[simp] theorem State.reg_setPc (s : State) (a : Word) (k : RegIndex) : (s.setPc a).reg k = s.reg k := rfl
@[simp] theorem State.reg_advance (s : State) (k : RegIndex) : (s.advance).reg k = s.reg k := rfl
@[simp] theorem State.reg_skipIf (s : State) (c : Bool) (k : RegIndex) : (s.skipIf c).reg k = s.reg k := rfl
@[simp] theorem State.reg_setDt (s : State) (b : Byte) (k : RegIndex) : (s.setDt b).reg k = s.reg k := rfl
@[simp] theorem State.reg_setSt (s : State) (b : Byte) (k : RegIndex) : (s.setSt b).reg k = s.reg k := rfl
@[simp] theorem State.reg_setMemory (s : State) (m : Memory) (k : RegIndex) : (s.setMemory m).reg k = s.reg k := rfl
@[simp] theorem State.reg_nextDraw (s : State) (k : RegIndex) : (s.nextDraw).reg k = s.reg k := rfl
@[simp] theorem State.reg_setDisplay (s : State) (f : Framebuffer) (k : RegIndex) : (s.setDisplay f).reg k = s.reg k := rfl

/-! #### The flag byte -/

@[simp] theorem flagByte_true : flagByte true = 1 := rfl
@[simp] theorem flagByte_false : flagByte false = 0 := rfl

end Sys2Proof.Machine
end

