-- ==== Sys2Proof/Laws/Ops.lean ====
section
/-! SUPPORT. What each shared operation can do, said once: push and pop, the block load of registers, the key search, the
turning over of pixels, one Step. -/

namespace Sys2Proof.Machine

/-! ### The return stack -/

/-- A push answers exactly when an entry is free; it writes that entry and SP. -/
theorem State.push_eq_some {s t : State} {a : Word} :
    s.push a = some t ↔ ∃ h : s.sp.val < 16,
      t = { s with stack := s.stack.set s.sp.val a h, sp := ⟨s.sp.val + 1, Nat.succ_lt_succ h⟩ } := by
  unfold State.push
  by_cases h : s.sp.val < 16
  · simp [h, eq_comm]
  · simp [h]

theorem State.push_eq_none {s : State} {a : Word} : s.push a = none ↔ s.sp.val = 16 := by
  unfold State.push
  by_cases h : s.sp.val < 16
  · simp [h]; omega
  · simp [h]; omega

/-- A pop answers exactly when an entry is in use; it writes SP alone. -/
theorem State.pop_eq_some {s t : State} {a : Word} :
    s.pop = some (a, t) ↔ ∃ h : 0 < s.sp.val,
      a = s.stack[s.sp.val - 1]'(by omega) ∧ t = { s with sp := ⟨s.sp.val - 1, by omega⟩ } := by
  unfold State.pop
  by_cases h : 0 < s.sp.val
  · simp [h, eq_comm]
  · simp [h]

theorem State.pop_eq_none {s : State} : s.pop = none ↔ s.sp.val = 0 := by
  unfold State.pop
  by_cases h : 0 < s.sp.val
  · simp [h]; omega
  · simp [h]; omega

/-! ### The block load of registers -/

/-- After a block load from index k, register j holds byte j - k of the block if the block reaches it. -/
theorem loadVector_getElem (v : Vector Byte 16) (k : Nat) (bs : List Byte) (j : Nat) (hj : j < 16) :
    (loadVector v k bs)[j] = if h : k ≤ j ∧ j - k < bs.length then bs[j - k]'h.2 else v[j] := by
  induction bs generalizing v k with
  | nil => simp [loadVector]
  | cons b bs ih =>
    rw [loadVector, ih]
    by_cases h1 : k + 1 ≤ j ∧ j - (k + 1) < bs.length
    · have h2 : k ≤ j ∧ j - k < (b :: bs).length := by simp; omega
      rw [dif_pos h1, dif_pos h2]
      have : j - k = j - (k + 1) + 1 := by omega
      simp [this]
    · rw [dif_neg h1]
      by_cases h2 : k = j
      · subst h2; simp
      · have h3 : ¬(k ≤ j ∧ j - k < (b :: bs).length) := by simp; omega
        rw [dif_neg h3, Vector.getElem_setIfInBounds_ne hj h2]

/-- After FX65's load, register k holds byte k of the block if the block reaches it. -/
theorem State.reg_setRegBytes (s : State) (bs : List Byte) (k : RegIndex) :
    (s.setRegBytes bs).reg k = if h : k.toNat < bs.length then bs[k.toNat] else s.reg k := by
  have := loadVector_getElem s.v 0 bs k.toNat k.isLt
  simpa [State.reg, State.setRegBytes] using this

@[simp] theorem State.regBytes_length (s : State) (n : Nat) : (s.regBytes n).length = min n 16 := by
  simp [State.regBytes]

theorem State.regBytes_getElem (s : State) (n j : Nat) (h : j < (s.regBytes n).length) (hj : j < 16) :
    (s.regBytes n)[j] = s.reg (BitVec.ofNat 4 j) := by
  have : j % 16 = j := Nat.mod_eq_of_lt hj
  simp [State.regBytes, State.reg, this]

/-! ### The key search -/

theorem mem_keyCodes (k : KeyCode) : k ∈ keyCodes :=
  List.mem_map.2 ⟨k.toNat, List.mem_range.2 k.isLt, by simp⟩

/-- No key is found exactly when none is pressed. -/
theorem State.lowestKey_eq_none {s : State} : s.lowestKey = none ↔ ∀ k, s.keyPressed k = false := by
  simp only [State.lowestKey, List.find?_eq_none, Bool.not_eq_true]
  exact ⟨fun h k => h k (mem_keyCodes k), fun h k _ => h k⟩

/-- The key found is pressed, and no lower one is. -/
theorem State.lowestKey_spec {s : State} {k : KeyCode} (h : s.lowestKey = some k) :
    s.keyPressed k = true ∧ ∀ j : KeyCode, j < k → s.keyPressed j = false := by
  refine ⟨List.find?_some h, fun j hj => ?_⟩
  obtain ⟨_, as, bs, hsplit, hno⟩ := List.find?_eq_some_iff_append.1 h
  have hrise : (as ++ k :: bs).Pairwise (· < ·) := hsplit ▸ (by decide : keyCodes.Pairwise (· < ·))
  have hmem : j ∈ as ++ k :: bs := hsplit ▸ mem_keyCodes j
  rcases List.mem_append.1 hmem with hin | hin
  · simpa using hno j hin
  · rcases List.mem_cons.1 hin with rfl | hin
    · exact absurd hj (BitVec.lt_irrefl _)
    · have := (List.pairwise_cons.1 (List.pairwise_append.1 hrise).2.1).1 j hin
      exact absurd (BitVec.lt_trans hj this) (BitVec.lt_irrefl _)

/-! ### Turning pixels over -/

theorem Framebuffer.pixel_toggle (fb : Framebuffer) (y y' : Fin 32) (x x' : Fin 64) :
    (fb.toggle y x).pixel y' x' = if y' = y ∧ x' = x then !fb.pixel y x else fb.pixel y' x' := by
  by_cases hy : y' = y
  · subst hy
    by_cases hx : x' = x
    · subst hx; simp [Framebuffer.toggle, Framebuffer.pixel]
    · have : x.val ≠ x'.val := fun e => hx (Fin.ext e.symm)
      simp [Framebuffer.toggle, Framebuffer.pixel, hx, this]
  · have : y.val ≠ y'.val := fun e => hy (Fin.ext e.symm)
    simp [Framebuffer.toggle, Framebuffer.pixel, hy, this]

@[simp] theorem Framebuffer.pixel_clear (y : Fin 32) (x : Fin 64) : Framebuffer.clear.pixel y x = false := by
  simp [Framebuffer.clear, Framebuffer.pixel]

theorem Framebuffer.ext_pixel {f g : Framebuffer} (h : ∀ y x, f.pixel y x = g.pixel y x) : f = g := by
  apply Vector.ext
  intro y hy
  apply Vector.ext
  intro x hx
  exact h ⟨y, hy⟩ ⟨x, hx⟩

/-- After turning over a list of different pixels, exactly those pixels have changed. -/
theorem togglePixels_pixel {ps : List (Fin 32 × Fin 64)} (hps : ps.Nodup) (fb : Framebuffer) (c : Bool)
    (y : Fin 32) (x : Fin 64) :
    (togglePixels fb c ps).1.pixel y x = (fb.pixel y x ^^ decide ((y, x) ∈ ps)) := by
  induction ps generalizing fb c with
  | nil => simp [togglePixels]
  | cons p ps ih =>
    obtain ⟨hp, hps⟩ := List.nodup_cons.1 hps
    rw [togglePixels, ih hps, Framebuffer.pixel_toggle]
    by_cases h : (y, x) = p
    · subst h; simp [hp]
    · have h' : ¬(y = p.1 ∧ x = p.2) := fun e => h (Prod.ext e.1 e.2)
      simp [h, h']

/-- The collision flag: some pixel of the list was set before. -/
theorem togglePixels_collision {ps : List (Fin 32 × Fin 64)} (hps : ps.Nodup) (fb : Framebuffer) (c : Bool) :
    (togglePixels fb c ps).2 = true ↔ c = true ∨ ∃ p ∈ ps, fb.pixel p.1 p.2 = true := by
  induction ps generalizing fb c with
  | nil => simp [togglePixels]
  | cons p ps ih =>
    obtain ⟨hp, hps⟩ := List.nodup_cons.1 hps
    rw [togglePixels, ih hps]
    have hsame : (∃ q ∈ ps, (fb.toggle p.1 p.2).pixel q.1 q.2 = true) ↔ ∃ q ∈ ps, fb.pixel q.1 q.2 = true := by
      refine exists_congr fun q => and_congr_right fun hq => ?_
      have : ¬(q.1 = p.1 ∧ q.2 = p.2) := fun e => hp (Prod.ext e.1 e.2 ▸ hq)
      rw [Framebuffer.pixel_toggle, if_neg this]
    rw [hsame]
    simp [or_assoc]

theorem mem_litColumns {row : Byte} {c : Nat} : c ∈ litColumns row ↔ c < 8 ∧ row.getLsbD (7 - c) = true := by
  simp [litColumns]

/-- Which pixels a sprite turns over (44_display.md R171). -/
theorem mem_spritePixels {m : Memory} {a n x0 y0 : Nat} {p : Fin 32 × Fin 64} :
    p ∈ spritePixels m a n x0 y0 ↔
      ∃ r < n, ∃ c < 8, (m.read (a + r)).getLsbD (7 - c) = true ∧ p.1.val = (y0 + r) % 32 ∧ p.2.val = (x0 + c) % 64 := by
  simp only [spritePixels, List.mem_flatMap, List.mem_range, List.mem_map, mem_litColumns]
  constructor
  · rintro ⟨r, hr, c, ⟨hc, hbit⟩, rfl⟩
    exact ⟨r, hr, c, hc, hbit, rfl, rfl⟩
  · rintro ⟨r, hr, c, hc, hbit, h1, h2⟩
    exact ⟨r, hr, c, ⟨hc, hbit⟩, Prod.ext (Fin.ext h1.symm) (Fin.ext h2.symm)⟩

/-- No two sprite bits fall on one pixel: 8 columns are fewer than 64 and at most 15 rows fewer than 32 (44_display.md R171). -/
theorem spritePixels_nodup (m : Memory) (a n x0 y0 : Nat) (hn : n ≤ 32) : (spritePixels m a n x0 y0).Nodup := by
  refine List.nodup_flatMap.2 ⟨fun r _ => ?_, ?_⟩
  · have hcols : (litColumns (m.read (a + r))).Nodup := List.nodup_range.filter _
    refine (List.nodup_map_iff_inj_on hcols).2 fun c hc d hd h => ?_
    have h2 := congrArg (fun p : Fin 32 × Fin 64 => p.2.val) h
    have := (mem_litColumns.1 hc).1
    have := (mem_litColumns.1 hd).1
    simp only [spritePixel] at h2
    omega
  · refine List.nodup_range.imp_of_mem fun {r q} hr hq hne => ?_
    have hr := List.mem_range.1 hr
    have hq := List.mem_range.1 hq
    rw [Function.onFun, List.disjoint_left]
    intro p hp hp'
    obtain ⟨c, _, rfl⟩ := List.mem_map.1 hp
    obtain ⟨d, _, h⟩ := List.mem_map.1 hp'
    have h1 := congrArg (fun p : Fin 32 × Fin 64 => p.1.val) h
    simp only [spritePixel] at h1
    omega

theorem drawPixels_nodup (s : State) (x y : RegIndex) (n : BitVec 4) : (drawPixels s x y n).Nodup :=
  spritePixels_nodup _ _ _ _ _ (by have := n.isLt; omega)

/-! ### One Step -/

/-- A halted engine does nothing (60_exceptions.md R204). -/
theorem step_halted {s : State} (hf : s.fault ≠ .none) : step s = .next s := by simp [step, State.halted, hf]

/-- The fetch fault (40_engine.md R91). -/
theorem step_fetch_fault {s : State} (hf : s.fault = .none) (hw : s.fetch = none) :
    step s = raiseFault .memoryAddressOutOfRange s := by simp [step, State.halted, hf, hw]

/-- The fault of an unknown word (40_engine.md R93). -/
theorem step_unknown {s : State} {w : Word} {e : DecodeError} (hf : s.fault = .none) (hw : s.fetch = some w)
    (hd : decodeWord w = .error e) : step s = raiseFault .unknownOpcode s := by simp [step, State.halted, hf, hw, hd]

/-- The decoded instruction (40_engine.md R90). -/
theorem step_decoded {s : State} {w : Word} {i : Instr} (hf : s.fault = .none) (hw : s.fetch = some w)
    (hd : decodeWord w = .ok i) : step s = exec i s := by simp [step, State.halted, hf, hw, hd]

/-- What one Step can do (40_engine.md R90): nothing while halted, a fault of the fetch, a fault of the decoder, or the
decoded instruction. -/
theorem step_cases (s : State) :
    (s.fault ≠ .none ∧ step s = .next s) ∨
    (s.fault = .none ∧ 0xFFE < s.pc.toNat ∧ step s = .next { s with fault := .memoryAddressOutOfRange }) ∨
    (s.fault = .none ∧ s.pc.toNat ≤ 0xFFE ∧ ∃ w e, s.fetch = some w ∧ decodeWord w = .error e ∧
      step s = .next { s with fault := .unknownOpcode }) ∨
    (s.fault = .none ∧ s.pc.toNat ≤ 0xFFE ∧ ∃ w i, s.fetch = some w ∧ decodeWord w = .ok i ∧ step s = exec i s) := by
  by_cases hf : s.fault = .none
  · rcases Nat.lt_or_ge 0xFFE s.pc.toNat with hpc | hpc
    · exact .inr (.inl ⟨hf, hpc, step_fetch_fault hf (State.fetch_of_gt hpc)⟩)
    · have hw := State.fetch_of_le hpc
      cases hd : decodeWord (wordOfBytes (s.memory.read s.pc.toNat) (s.memory.read (s.pc.toNat + 1))) with
      | error e => exact .inr (.inr (.inl ⟨hf, hpc, _, e, hw, hd, step_unknown hf hw hd⟩))
      | ok i => exact .inr (.inr (.inr ⟨hf, hpc, _, i, hw, hd, step_decoded hf hw hd⟩))
  · exact .inl ⟨hf, step_halted hf⟩

/-- A decoder that reads the two bytes reads their word, and nothing is left over (30_encoding.md R70). -/
theorem decodeBytes_pair {a b : Byte} {i : Instr} :
    decodeBytes [a, b] = .ok (i, []) ↔ decodeWord (wordOfBytes a b) = .ok i := by
  rw [decodeBytes]
  cases decodeWord (wordOfBytes a b) <;> simp

end Sys2Proof.Machine
end

