-- ==== Sys2Proof/Laws/Exec.lean ====
section
/-! SUPPORT. The meanings that check something, one equation for each side of the check; every other meaning is one `.next` and
unfolds to it. -/

namespace Sys2Proof.Machine

theorem execCall_free {s : State} (nnn : BitVec 12) (h : s.sp.val < 16) :
    execCall nnn s = .next (State.setPc
      { s with stack := s.stack.set s.sp.val (s.pc + 2) h, sp := ⟨s.sp.val + 1, Nat.succ_lt_succ h⟩ } (zextAddr nnn)) := by
  rw [execCall, State.push_eq_some.2 ⟨h, rfl⟩]

theorem execCall_full {s : State} (nnn : BitVec 12) (h : s.sp.val = 16) : execCall nnn s = raiseFault .stackOverflow s := by
  rw [execCall, State.push_eq_none.2 h]

theorem execRet_used {s : State} (h : 0 < s.sp.val) :
    execRet s = .next (State.setPc { s with sp := ⟨s.sp.val - 1, by omega⟩ } (s.stack[s.sp.val - 1]'(by omega))) := by
  rw [execRet, State.pop_eq_some.2 ⟨h, rfl, rfl⟩]

theorem execRet_empty {s : State} (h : s.sp.val = 0) : execRet s = raiseFault .stackUnderflow s := by
  rw [execRet, State.pop_eq_none.2 h]

theorem execLdB_inside {s : State} (x : RegIndex) (h : s.i.toNat + 2 ≤ 0xFFF) :
    execLdB x s = .next (s.setMemory (s.memory.writeBytes s.i.toNat (bcdDigits (s.reg x)))).advance :=
  if_pos ((inRange_iff _ _).2 (by omega))

theorem execLdB_outside {s : State} (x : RegIndex) (h : 0xFFF < s.i.toNat + 2) :
    execLdB x s = raiseFault .memoryAddressOutOfRange s :=
  if_neg fun e => by have := (inRange_iff _ _).1 e; omega

theorem execStoreRegs_inside {s : State} (x : RegIndex) (h : s.i.toNat + x.toNat ≤ 0xFFF) :
    execStoreRegs x s = .next ((s.setMemory (s.memory.writeBytes s.i.toNat (s.regBytes (moveCount x)))).setI
      (indexAfterMove s x)).advance :=
  if_pos ((inRange_iff _ _).2 (by unfold moveCount; omega))

theorem execStoreRegs_outside {s : State} (x : RegIndex) (h : 0xFFF < s.i.toNat + x.toNat) :
    execStoreRegs x s = raiseFault .memoryAddressOutOfRange s :=
  if_neg fun e => by have := (inRange_iff _ _).1 e; unfold moveCount at this; omega

theorem execLoadRegs_inside {s : State} (x : RegIndex) (h : s.i.toNat + x.toNat ≤ 0xFFF) :
    execLoadRegs x s = .next ((s.setRegBytes (s.memory.readBytes s.i.toNat (moveCount x))).setI
      (indexAfterMove s x)).advance :=
  if_pos ((inRange_iff _ _).2 (by unfold moveCount; omega))

theorem execLoadRegs_outside {s : State} (x : RegIndex) (h : 0xFFF < s.i.toNat + x.toNat) :
    execLoadRegs x s = raiseFault .memoryAddressOutOfRange s :=
  if_neg fun e => by have := (inRange_iff _ _).1 e; unfold moveCount at this; omega

theorem execDrw_inside {s : State} (x y : RegIndex) (n : BitVec 4) (h : n.toNat = 0 ∨ s.i.toNat + n.toNat - 1 ≤ 0xFFF) :
    execDrw x y n s = .next ((s.setDisplay (drawSprite s x y n).1).setFlag (drawSprite s x y n).2).advance :=
  if_pos ((inRange_iff _ _).2 (by omega))

theorem execDrw_outside {s : State} (x y : RegIndex) (n : BitVec 4) (h : 0 < n.toNat) (h' : 0xFFF < s.i.toNat + n.toNat - 1) :
    execDrw x y n s = raiseFault .memoryAddressOutOfRange s :=
  if_neg fun e => by have := (inRange_iff _ _).1 e; omega

theorem execLdVxK_pressed {s : State} {k : KeyCode} (x : RegIndex) (h : s.lowestKey = some k) :
    execLdVxK x s = .next (s.setReg x (k.setWidth 8)).advance := by rw [execLdVxK, h]

theorem execLdVxK_waits {s : State} (x : RegIndex) (h : s.lowestKey = none) : execLdVxK x s = .next s := by
  rw [execLdVxK, h]

/-- The pixels and the flag of a draw (44_display.md R171). -/
theorem drawSprite_pixel (s : State) (x y : RegIndex) (n : BitVec 4) (py : Fin 32) (px : Fin 64) :
    (drawSprite s x y n).1.pixel py px = (s.fb.pixel py px ^^ decide ((py, px) ∈ drawPixels s x y n)) :=
  togglePixels_pixel (drawPixels_nodup s x y n) _ _ _ _

theorem drawSprite_collision (s : State) (x y : RegIndex) (n : BitVec 4) :
    (drawSprite s x y n).2 = true ↔ ∃ p ∈ drawPixels s x y n, s.fb.pixel p.1 p.2 = true :=
  (togglePixels_collision (drawPixels_nodup s x y n) s.fb false).trans (by simp)

end Sys2Proof.Machine
end

