-- ==== Sys2Proof/Laws/PerInstr.lean ====
section
/-! SUPPORT. The family TableRow, stated for every instruction: its word selects its row of the opcode map, and the row is in the
map (30_encoding.md R72, R80). -/

namespace Sys2Proof.Laws

/-! ### One lemma for each format -/

/-- A word of two bytes selects a row when each byte does, under the row's mask byte. -/
theorem bytes_select {a b : Byte} {r : OpcodeRow} (h : a &&& r.mask.extractLsb' 8 8 = r.pattern.extractLsb' 8 8)
    (l : b &&& r.mask.extractLsb' 0 8 = r.pattern.extractLsb' 0 8) : r.selects (wordOfBytes a b) = true := by
  simp only [OpcodeRow.selects, beq_iff_eq]
  apply word_eq_of_bytes
  · rw [BitVec.extractLsb'_and, wordOfBytes_high, h]
  · rw [BitVec.extractLsb'_and, wordOfBytes_low, l]

theorem high_nibble_mask (op x : BitVec 4) : (op ++ x : Byte) &&& 0xF0 = op ++ 0#4 := by
  revert op x; decide

theorem low_nibble_mask (y n : BitVec 4) : (y ++ n : Byte) &&& 0x0F = 0#4 ++ n := by
  revert y n; decide

theorem xnn_selects (op : BitVec 4) (x : RegIndex) (nn : Byte) :
    OpcodeRow.selects ⟨0xF000, wordOfBytes (op ++ 0#4) 0⟩ (encodeXNN op x nn) = true :=
  bytes_select (by simpa using high_nibble_mask op x) (by simp)

theorem nnn_selects (op : BitVec 4) (nnn : BitVec 12) :
    OpcodeRow.selects ⟨0xF000, wordOfBytes (op ++ 0#4) 0⟩ (encodeNNN op nnn) = true :=
  encodeNNN_eq_bytes op nnn ▸ xnn_selects op _ _

theorem xys_selects (op : BitVec 4) (x y : RegIndex) (n : BitVec 4) :
    OpcodeRow.selects ⟨0xF00F, wordOfBytes (op ++ 0#4) (0#4 ++ n)⟩ (encodeXYN op x y n) = true :=
  bytes_select (by simpa using high_nibble_mask op x) (by simpa using low_nibble_mask y n)

theorem xyn_selects (op : BitVec 4) (x y : RegIndex) (n : BitVec 4) :
    OpcodeRow.selects ⟨0xF000, wordOfBytes (op ++ 0#4) 0⟩ (encodeXYN op x y n) = true :=
  xnn_selects op x _

theorem xs8_selects (op : BitVec 4) (x : RegIndex) (sub8 : Byte) :
    OpcodeRow.selects ⟨0xF0FF, wordOfBytes (op ++ 0#4) sub8⟩ (encodeXS8 op x sub8) = true :=
  bytes_select (by simpa using high_nibble_mask op x)
    (by simpa using (BitVec.and_allOnes : sub8 &&& BitVec.allOnes 8 = sub8))

/-! ### The family -/

/-- The word of an instruction selects the row of the instruction, and that row is in the opcode map. -/
def TableRow.Statement (i : Instr) : Prop := i.row.selects (encode i) = true ∧ i.row ∈ opcodeTable

theorem TableRow.cls : TableRow.Statement .cls := ⟨by decide, by decide⟩
theorem TableRow.ret : TableRow.Statement .ret := ⟨by decide, by decide⟩
theorem TableRow.jp (nnn : BitVec 12) : TableRow.Statement (.jp nnn) := ⟨nnn_selects _ _, by simp [Instr.row]; decide⟩
theorem TableRow.call (nnn : BitVec 12) : TableRow.Statement (.call nnn) := ⟨nnn_selects _ _, by simp [Instr.row]; decide⟩
theorem TableRow.seImm (x : RegIndex) (nn : Byte) : TableRow.Statement (.seImm x nn) := ⟨xnn_selects _ _ _, by simp [Instr.row]; decide⟩
theorem TableRow.sneImm (x : RegIndex) (nn : Byte) : TableRow.Statement (.sneImm x nn) := ⟨xnn_selects _ _ _, by simp [Instr.row]; decide⟩
theorem TableRow.seReg (x y : RegIndex) : TableRow.Statement (.seReg x y) := ⟨xys_selects _ _ _ _, by simp [Instr.row]; decide⟩
theorem TableRow.ldImm (x : RegIndex) (nn : Byte) : TableRow.Statement (.ldImm x nn) := ⟨xnn_selects _ _ _, by simp [Instr.row]; decide⟩
theorem TableRow.addImm (x : RegIndex) (nn : Byte) : TableRow.Statement (.addImm x nn) := ⟨xnn_selects _ _ _, by simp [Instr.row]; decide⟩
theorem TableRow.ldReg (x y : RegIndex) : TableRow.Statement (.ldReg x y) := ⟨xys_selects _ _ _ _, by simp [Instr.row]; decide⟩
theorem TableRow.orReg (x y : RegIndex) : TableRow.Statement (.orReg x y) := ⟨xys_selects _ _ _ _, by simp [Instr.row]; decide⟩
theorem TableRow.andReg (x y : RegIndex) : TableRow.Statement (.andReg x y) := ⟨xys_selects _ _ _ _, by simp [Instr.row]; decide⟩
theorem TableRow.xorReg (x y : RegIndex) : TableRow.Statement (.xorReg x y) := ⟨xys_selects _ _ _ _, by simp [Instr.row]; decide⟩
theorem TableRow.addReg (x y : RegIndex) : TableRow.Statement (.addReg x y) := ⟨xys_selects _ _ _ _, by simp [Instr.row]; decide⟩
theorem TableRow.sub (x y : RegIndex) : TableRow.Statement (.sub x y) := ⟨xys_selects _ _ _ _, by simp [Instr.row]; decide⟩
theorem TableRow.shr (x y : RegIndex) : TableRow.Statement (.shr x y) := ⟨xys_selects _ _ _ _, by simp [Instr.row]; decide⟩
theorem TableRow.subn (x y : RegIndex) : TableRow.Statement (.subn x y) := ⟨xys_selects _ _ _ _, by simp [Instr.row]; decide⟩
theorem TableRow.shl (x y : RegIndex) : TableRow.Statement (.shl x y) := ⟨xys_selects _ _ _ _, by simp [Instr.row]; decide⟩
theorem TableRow.sneReg (x y : RegIndex) : TableRow.Statement (.sneReg x y) := ⟨xys_selects _ _ _ _, by simp [Instr.row]; decide⟩
theorem TableRow.ldI (nnn : BitVec 12) : TableRow.Statement (.ldI nnn) := ⟨nnn_selects _ _, by simp [Instr.row]; decide⟩
theorem TableRow.jpV0 (nnn : BitVec 12) : TableRow.Statement (.jpV0 nnn) := ⟨nnn_selects _ _, by simp [Instr.row]; decide⟩
theorem TableRow.rnd (x : RegIndex) (nn : Byte) : TableRow.Statement (.rnd x nn) := ⟨xnn_selects _ _ _, by simp [Instr.row]; decide⟩
theorem TableRow.drw (x y : RegIndex) (n : BitVec 4) : TableRow.Statement (.drw x y n) := ⟨xyn_selects _ _ _ _, by simp [Instr.row]; decide⟩
theorem TableRow.skp (x : RegIndex) : TableRow.Statement (.skp x) := ⟨xs8_selects _ _ _, by simp [Instr.row]; decide⟩
theorem TableRow.sknp (x : RegIndex) : TableRow.Statement (.sknp x) := ⟨xs8_selects _ _ _, by simp [Instr.row]; decide⟩
theorem TableRow.ldVxDt (x : RegIndex) : TableRow.Statement (.ldVxDt x) := ⟨xs8_selects _ _ _, by simp [Instr.row]; decide⟩
theorem TableRow.ldVxK (x : RegIndex) : TableRow.Statement (.ldVxK x) := ⟨xs8_selects _ _ _, by simp [Instr.row]; decide⟩
theorem TableRow.ldDtVx (x : RegIndex) : TableRow.Statement (.ldDtVx x) := ⟨xs8_selects _ _ _, by simp [Instr.row]; decide⟩
theorem TableRow.ldStVx (x : RegIndex) : TableRow.Statement (.ldStVx x) := ⟨xs8_selects _ _ _, by simp [Instr.row]; decide⟩
theorem TableRow.addI (x : RegIndex) : TableRow.Statement (.addI x) := ⟨xs8_selects _ _ _, by simp [Instr.row]; decide⟩
theorem TableRow.ldF (x : RegIndex) : TableRow.Statement (.ldF x) := ⟨xs8_selects _ _ _, by simp [Instr.row]; decide⟩
theorem TableRow.ldB (x : RegIndex) : TableRow.Statement (.ldB x) := ⟨xs8_selects _ _ _, by simp [Instr.row]; decide⟩
theorem TableRow.storeRegs (x : RegIndex) : TableRow.Statement (.storeRegs x) := ⟨xs8_selects _ _ _, by simp [Instr.row]; decide⟩
theorem TableRow.loadRegs (x : RegIndex) : TableRow.Statement (.loadRegs x) := ⟨xs8_selects _ _ _, by simp [Instr.row]; decide⟩

end Sys2Proof.Laws
end

