-- ==== Sys2Proof/Tests/Slice0.lean ====
section
/-! SUPPORT. The model's own tests: decoding of words written out bit by bit, ill-formed words, one-Step tests with the expected
results of spec/95_test_vectors.md, and for every obligation with hypotheses a state that meets them. -/

namespace Sys2Proof.Tests

open Sys2Proof.Machine

/-! ### Decoding: words written out from the formats of 30_encoding.md R72 and the patterns of R80 -/

/-- The decoder reads instruction i from word w. -/
def reads (w : Word) (i : Instr) : Bool := decide (decodeBytes (bytesOfWord w) = .ok (i, []))

theorem test_decode_control :
    [reads 0b0000000011101110 (.ret),
     reads 0b0001101010111100 (.jp 0xABC),
     reads 0b0010001100000000 (.call 0x300),
     reads 0b1011001000010000 (.jpV0 0x210),
     reads 0b0011010000010010 (.seImm 0x4 0x12),
     reads 0b0100010100010011 (.sneImm 0x5 0x13),
     reads 0b0101000100100000 (.seReg 0x1 0x2),
     reads 0b1001000100100000 (.sneReg 0x1 0x2)].all id = true := by decide

theorem test_decode_alu :
    [reads 0b0110101001000010 (.ldImm 0xA 0x42),
     reads 0b0111111100000001 (.addImm 0xF 0x01),
     reads 0b1000001111000000 (.ldReg 0x3 0xC),
     reads 0b1000001111000001 (.orReg 0x3 0xC),
     reads 0b1000001111000010 (.andReg 0x3 0xC),
     reads 0b1000001111000011 (.xorReg 0x3 0xC),
     reads 0b1000001111000100 (.addReg 0x3 0xC),
     reads 0b1000001111000101 (.sub 0x3 0xC),
     reads 0b1000001111000110 (.shr 0x3 0xC),
     reads 0b1000001111000111 (.subn 0x3 0xC),
     reads 0b1000001111001110 (.shl 0x3 0xC),
     reads 0b1100001100001111 (.rnd 0x3 0x0F)].all id = true := by decide

theorem test_decode_index :
    [reads 0b1010000100100011 (.ldI 0x123),
     reads 0b1111000100011110 (.addI 0x1),
     reads 0b1111101000101001 (.ldF 0xA),
     reads 0b1111011100110011 (.ldB 0x7),
     reads 0b1111000101010101 (.storeRegs 0x1),
     reads 0b1111001001100101 (.loadRegs 0x2)].all id = true := by decide

theorem test_decode_display :
    [reads 0b0000000011100000 (.cls),
     reads 0b1101011010011111 (.drw 0x6 0x9 0xF)].all id = true := by decide

theorem test_decode_input :
    [reads 0b1110100010011110 (.skp 0x8),
     reads 0b1110100010100001 (.sknp 0x8),
     reads 0b1111000100000111 (.ldVxDt 0x1),
     reads 0b1111001100001010 (.ldVxK 0x3),
     reads 0b1111111000010101 (.ldDtVx 0xE),
     reads 0b1111111000011000 (.ldStVx 0xE)].all id = true := by decide

/-- The table numbering and the byte order: 0x8014 is stored 0x80, 0x14 (20_memory.md R50). -/
theorem test_decode_table_word : decodeTableWord 16 0x8014 = some (.addReg 0x0 0x1) := by decide

theorem test_bytes_of_word : bytesOfWord 0x8014 = [0x80, 0x14] := by decide

/-- 30_encoding.md R70: one byte is no instruction. -/
theorem test_decode_one_byte : decodeBytes [0x00] = .error .truncated := by decide

/-! ### Ill-formed words, one check for each family that has any (30_encoding.md R82; 95_test_vectors.md TE1 to TE9) -/

theorem test_ill_formed_family0 : [0x0000, 0x00E1, 0x01E0, 0x0123].all (!wellFormedWord ·) = true := by decide
theorem test_ill_formed_family5 : wellFormedWord 0x5121 = false := by decide
theorem test_ill_formed_family8 : [0x8008, 0x800C, 0x800F].all (!wellFormedWord ·) = true := by decide
theorem test_ill_formed_family9 : wellFormedWord 0x9121 = false := by decide
theorem test_ill_formed_familyE : [0xE09F, 0xE0A2].all (!wellFormedWord ·) = true := by decide
theorem test_ill_formed_familyF : [0xF000, 0xF0FF, 0xF01F, 0xF075].all (!wellFormedWord ·) = true := by decide
theorem test_unknown_is_named : decodeWord 0x5121 = .error (.unknown 0x5121) := by decide

/-! ### One Step (95_test_vectors.md Part 2; the vector's name stands in each comment) -/

/-- The state after reset with registers set. -/
def start (regs : List (RegIndex × Byte)) : State := regs.foldl (fun s p => s.setReg p.1 p.2) State.reset

/-- The outcome is a next state with the property. -/
def answers (o : Host.Outcome State Fault Refusal) (p : State → Bool) : Bool :=
  match o with
  | .next t => p t
  | _ => false

/-- One Step of a word placed where s fetches answers a state with the property. -/
def stepOn (s : State) (w : Nat) (p : State → Bool) : Bool := answers (step (s.withFetchWord 16 w)) p

/-- s with one quirk record. -/
def withQuirks (s : State) (q : Quirks) : State := { s with quirks := q }

/-- The quirks of the test convention, with one of them set. -/
def shiftY : Quirks := { Config.resetQuirks with shiftUsesVy := true }
def keepVf : Quirks := { Config.resetQuirks with logicOpsResetVf := false }
def addIVf : Quirks := { Config.resetQuirks with addToIOverflowSetsVf := true }
def moveI : Quirks := { Config.resetQuirks with loadStoreIncrementsI := true }
def jumpX : Quirks := { Config.resetQuirks with jumpWithOffsetUsesVx := true }

/-- TC1. -/
theorem test_jp :
    stepOn (start []) 0x1ABC (fun t => t.pc == 0xABC) = true := by decide

/-- TC4. -/
theorem test_call :
    stepOn (start []) 0x2300 (fun t => t.stack[0] == 0x202 && t.sp == 1 && t.pc == 0x300) = true := by decide

/-- TC5. -/
theorem test_call_full :
    stepOn ({ start [] with sp := 16 }) 0x2300 (fun t => t.fault == .stackOverflow && t.sp == 16 && t.pc == 0x200) = true := by decide

/-- TC7. -/
theorem test_ret :
    stepOn ({ start [] with sp := 1, stack := (start []).stack.set 0 0x202 }) 0x00EE (fun t => t.sp == 0 && t.pc == 0x202) = true := by decide

/-- TC8. -/
theorem test_ret_empty :
    stepOn (start []) 0x00EE (fun t => t.fault == .stackUnderflow && t.pc == 0x200) = true := by decide

/-- TC11. -/
theorem test_jp_v0_unmasked :
    stepOn (start [(0, 0xFF)]) 0xBFFF (fun t => t.pc == 0x10FE) = true := by decide

/-- TC12. -/
theorem test_jp_v0_quirk :
    stepOn (withQuirks (start [(2, 0x05), (0, 0x40)]) jumpX) 0xB210 (fun t => t.pc == 0x215) = true := by decide

/-- TC14. -/
theorem test_se_imm_skips :
    stepOn (start [(0, 0x12)]) 0x3012 (fun t => t.pc == 0x204) = true := by decide

/-- TC23. -/
theorem test_se_imm_top :
    stepOn ({ start [] with pc := 0xFFE }) 0x3000 (fun t => t.pc == 0x1002 && t.fault == .none) = true := by decide

/-- TC16. -/
theorem test_sne_imm_skips :
    stepOn (start [(0, 0x12)]) 0x4013 (fun t => t.pc == 0x204) = true := by decide

/-- TC17. -/
theorem test_sne_imm_stays :
    stepOn (start [(0, 0x12)]) 0x4012 (fun t => t.pc == 0x202) = true := by decide

/-- TC18. -/
theorem test_se_reg :
    stepOn (start [(1, 7), (2, 7)]) 0x5120 (fun t => t.pc == 0x204) = true := by decide

/-- TC19. -/
theorem test_se_reg_stays :
    stepOn (start [(1, 7), (2, 8)]) 0x5120 (fun t => t.pc == 0x202) = true := by decide

/-- TC21. -/
theorem test_sne_reg :
    stepOn (start [(1, 7), (2, 8)]) 0x9120 (fun t => t.pc == 0x204) = true := by decide

/-- TC22. -/
theorem test_sne_reg_same :
    stepOn (start []) 0x9110 (fun t => t.pc == 0x202) = true := by decide

/-- TA1. -/
theorem test_ld_imm :
    stepOn (start []) 0x6A42 (fun t => t.reg 0xA == 0x42 && t.pc == 0x202) = true := by decide

/-- TA2. -/
theorem test_add_imm_no_flag :
    stepOn (start [(0, 0xFF), (0xF, 0x07)]) 0x7001 (fun t => t.reg 0 == 0 && t.reg 0xF == 0x07) = true := by decide

/-- TA3. -/
theorem test_add_imm_vf :
    stepOn (start [(0xF, 0x02)]) 0x7FFF (fun t => t.reg 0xF == 0x01) = true := by decide

/-- TA4. -/
theorem test_ld_reg :
    stepOn (start [(1, 0x33)]) 0x8010 (fun t => t.reg 0 == 0x33 && t.reg 1 == 0x33) = true := by decide

/-- TA7. -/
theorem test_or_clears_vf :
    stepOn (start [(0xF, 0x05), (1, 0x0A)]) 0x8F11 (fun t => t.reg 0xF == 0) = true := by decide

/-- TA8. -/
theorem test_or_keeps_vf :
    stepOn (withQuirks (start [(0xF, 0x05), (1, 0x0A)]) keepVf) 0x8F11 (fun t => t.reg 0xF == 0x0F) = true := by decide

/-- TA9. -/
theorem test_and :
    stepOn (start [(0, 0x3C), (1, 0x0F)]) 0x8012 (fun t => t.reg 0 == 0x0C && t.reg 0xF == 0) = true := by decide

/-- TA10. -/
theorem test_xor :
    stepOn (start [(0, 0xFF), (1, 0x0F)]) 0x8013 (fun t => t.reg 0 == 0xF0 && t.reg 0xF == 0) = true := by decide

/-- TA15. -/
theorem test_add_carry_into_vf :
    stepOn (start [(0xF, 0xFF), (1, 0x01)]) 0x8F14 (fun t => t.reg 0xF == 1) = true := by decide

/-- TA17. -/
theorem test_add_reads_old_vf :
    stepOn (start [(0, 0x01), (0xF, 0xFF)]) 0x80F4 (fun t => t.reg 0 == 0 && t.reg 0xF == 1) = true := by decide

/-- TA19. -/
theorem test_sub_borrow :
    stepOn (start [(0, 3), (1, 5)]) 0x8015 (fun t => t.reg 0 == 0xFE && t.reg 0xF == 0) = true := by decide

/-- TA20. -/
theorem test_sub_equal :
    stepOn (start [(0, 0x77)]) 0x8005 (fun t => t.reg 0 == 0 && t.reg 0xF == 1) = true := by decide

/-- TA24. -/
theorem test_shr_zero_fill :
    stepOn (start [(0, 0x80)]) 0x8016 (fun t => t.reg 0 == 0x40 && t.reg 0xF == 0) = true := by decide

/-- TA25. -/
theorem test_shr_quirk :
    stepOn (withQuirks (start [(1, 0xFF)]) shiftY) 0x8016 (fun t => t.reg 0 == 0x7F && t.reg 0xF == 1 && t.reg 1 == 0xFF) = true := by decide

/-- TA28. -/
theorem test_subn :
    stepOn (start [(0, 3), (1, 5)]) 0x8017 (fun t => t.reg 0 == 2 && t.reg 0xF == 1) = true := by decide

/-- TA29. -/
theorem test_subn_borrow :
    stepOn (start [(0, 5), (1, 3)]) 0x8017 (fun t => t.reg 0 == 0xFE && t.reg 0xF == 0) = true := by decide

/-- TA31. -/
theorem test_shl :
    stepOn (start [(0, 0x81)]) 0x800E (fun t => t.reg 0 == 0x02 && t.reg 0xF == 1) = true := by decide

/-- TA33. -/
theorem test_shl_quirk :
    stepOn (withQuirks (start [(0, 0x01), (1, 0x80)]) shiftY) 0x801E (fun t => t.reg 0 == 0 && t.reg 0xF == 1) = true := by decide

/-- TA35. -/
theorem test_rnd :
    stepOn ({ start [] with rnd := 0xAB }) 0xC30F (fun t => t.reg 3 == 0x0B && t.draws == 2) = true := by decide

/-- TM1. -/
theorem test_ld_i :
    stepOn (start []) 0xA123 (fun t => t.i == 0x123) = true := by decide

/-- TM6. -/
theorem test_add_i_quirk_wraps :
    stepOn ({ withQuirks (start [(0, 0x02)]) addIVf with i := 0xFFFF }) 0xF01E (fun t => t.i == 0x0001 && t.reg 0xF == 1) = true := by decide

/-- TM5. -/
theorem test_add_i_no_quirk :
    stepOn ({ start [(0, 0x01), (0xF, 0x09)] with i := 0xFFF }) 0xF01E (fun t => t.i == 0x1000 && t.reg 0xF == 0x09) = true := by decide

/-- TM9. -/
theorem test_ld_f_low_nibble :
    stepOn (start [(0, 0x1A)]) 0xF029 (fun t => t.i == 0x032) = true := by decide

/-- TM11. -/
theorem test_bcd :
    stepOn ({ start [(0, 0xFE)] with i := 0x300 }) 0xF033 (fun t => t.memory.readBytes 0x300 3 == [2, 5, 4]) = true := by decide

/-- TM16. -/
theorem test_bcd_range :
    stepOn ({ start [(0, 123)] with i := 0xFFE }) 0xF033 (fun t => t.fault == .memoryAddressOutOfRange && t.memory.read 0xFFE == 0) = true := by decide

/-- TM18. -/
theorem test_store_quirk :
    stepOn ({ withQuirks (start [(0, 1), (1, 2)]) moveI with i := 0x300 }) 0xF155 (fun t => t.memory.readBytes 0x300 3 == [1, 2, 0] && t.i == 0x302) = true := by decide

/-- TM19. -/
theorem test_store_top :
    stepOn ({ start [(0xF, 9)] with i := 0xFF0 }) 0xFF55 (fun t => t.memory.read 0xFFF == 9 && t.i == 0xFF0 && t.fault == .none) = true := by decide

/-- TM24. -/
theorem test_load :
    stepOn ({ withQuirks (start [(3, 7)]) moveI with i := 0x300, memory := State.reset.memory.writeBytes 0x300 [2, 5, 4] }) 0xF265 (fun t => t.reg 0 == 2 && t.reg 1 == 5 && t.reg 2 == 4 && t.reg 3 == 7 && t.i == 0x303) = true := by decide

/-- TM26. -/
theorem test_load_range :
    stepOn ({ start [] with i := 0x1000 }) 0xF065 (fun t => t.fault == .memoryAddressOutOfRange) = true := by decide

/-- TD1. -/
theorem test_cls :
    stepOn ({ start [] with drawFlag := false, fb := Framebuffer.clear.toggle 3 5 }) 0x00E0 (fun t => t.drawFlag && !t.fb.pixel 3 5) = true := by decide

/-- TD3: glyph 0 of the default FONT, row 1 is 0x90. -/
theorem test_drw_glyph0 :
    stepOn (start []) 0xD015 (fun t => t.fb.pixel 1 0 && !t.fb.pixel 1 1 && !t.fb.pixel 1 2 && t.fb.pixel 1 3 && t.fb.pixel 4 2 && !t.fb.pixel 5 0 && t.reg 0xF == 0 && t.drawFlag) = true := by decide

/-- TD6. -/
theorem test_drw_wraps :
    stepOn ({ start [(0, 0x3C)] with i := 0x300, memory := State.reset.memory.write 0x300 0xFF }) 0xD011 (fun t => t.fb.pixel 0 63 && t.fb.pixel 0 3 && !t.fb.pixel 0 4 && !t.fb.pixel 1 0) = true := by decide

/-- TK2. -/
theorem test_skp_low_nibble :
    stepOn (setKeyState 5 true (start [(0, 0x15)])) 0xE09E (fun t => t.pc == 0x204) = true := by decide

/-- TK3. -/
theorem test_skp_released :
    stepOn (start [(0, 0x05)]) 0xE09E (fun t => t.pc == 0x202) = true := by decide

/-- TK4. -/
theorem test_sknp :
    stepOn (start [(0, 0x05)]) 0xE0A1 (fun t => t.pc == 0x204) = true := by decide

/-- TK5. -/
theorem test_sknp_pressed :
    stepOn (setKeyState 5 true (start [(0, 0x05)])) 0xE0A1 (fun t => t.pc == 0x202) = true := by decide

/-- TK6. -/
theorem test_key_wait :
    stepOn (start []) 0xF30A (fun t => t.pc == 0x200 && t.fault == .none) = true := by decide

/-- TK7. -/
theorem test_key_lowest :
    stepOn (setKeyState 0xB true (setKeyState 7 true (start []))) 0xF30A (fun t => t.reg 3 == 7 && t.pc == 0x202) = true := by decide

/-- TK9. -/
theorem test_ld_vx_dt :
    stepOn ({ start [] with dt := 0x2A }) 0xF107 (fun t => t.reg 1 == 0x2A && t.dt == 0x2A) = true := by decide

/-- TK10. -/
theorem test_ld_dt_vx :
    stepOn (start [(0, 3)]) 0xF015 (fun t => t.dt == 3 && t.st == 0) = true := by decide

/-- L1-8. -/
theorem test_ld_st_vx :
    stepOn (start [(0, 3)]) 0xF018 (fun t => t.st == 3 && t.dt == 0 && soundActive t) = true := by decide

/-! ### The engine and the host operations (95_test_vectors.md 2.5 to 2.7) -/

/-- TE1, TE16: nothing loaded, the word 0x0000 is unknown. -/
theorem test_reset_then_step : answers (step State.reset) (fun t => t.fault == .unknownOpcode && t.pc == 0x200) = true := by
  decide

/-- TE11. -/
theorem test_fetch_range :
    answers (step { start [] with pc := 0xFFF }) (fun t => t.fault == .memoryAddressOutOfRange && t.pc == 0xFFF) = true := by
  decide

/-- TE12: an odd PC. -/
theorem test_odd_pc :
    answers (step { start [] with pc := 0x201, memory := State.reset.memory.writeBytes 0x201 [0x13, 0x00] })
      (fun t => t.pc == 0x300) = true := by decide

/-- TE13: a halted engine runs nothing. -/
theorem test_halted :
    answers (step { start [] with fault := .stackOverflow, memory := State.reset.memory.writeBytes 0x200 [0x60, 0x0A] })
      (fun t => t.fault == .stackOverflow && t.pc == 0x200 && t.reg 0 == 0) = true := by decide

/-- TE15. -/
theorem test_acknowledge : (acknowledgeDraw State.reset).drawFlag = false := by decide

/-- TK12, TK13. -/
theorem test_tick : (tick { start [] with dt := 1, st := 5 }).dt = 0 ∧ (tick { start [] with dt := 1, st := 5 }).st = 4 ∧
    (tick (start [])).dt = 0 ∧ (tick (start [])).st = 0 := by decide

/-- TK15. -/
theorem test_set_key_state : (setKeyState 0xC true (start [])).keyPressed 0xC = true ∧
    (setKeyState 0xC true (start [])).keyPressed 0xB = false := by decide

/-- TL4, shortened: a load writes only its own bytes. -/
theorem test_load_program : (loadProgram [0x12, 0x00] (start [])).1 = .ok ∧
    (loadProgram [0x12, 0x00] (start [])).2.memory.readBytes 0x1FF 4 = [0x00, 0x12, 0x00, 0x00] := by decide

/-- TE14. -/
theorem test_reset_clears_fault : (resetBlock moveI { start [] with fault := .stackOverflow }).fault = .none ∧
    (resetBlock moveI { start [] with fault := .stackOverflow }).quirks = moveI := by decide

/-- 70_reset_and_hazards.md R231: glyph F stands at 0x04B, and 0x050 holds 0. -/
theorem test_font : State.reset.memory.readBytes 0x04B 6 = [0xF0, 0x80, 0xF0, 0x80, 0x80, 0x00] := by decide

/-- 60_exceptions.md R202: the code of UnknownOpcode is 3. -/
theorem test_fault_port : faultPort { start [] with fault := .unknownOpcode } = 3 := by decide

/-- 40_engine.md R104. -/
theorem test_dump_memory : dumpMemory 0xFFE { start [] with memory := State.reset.memory.write 0xFFF 7 } = [0, 7] := by decide

/-- A byte written back to its reset content leaves the cell list as it was: equal memories are equal data. -/
theorem test_canonical_memory : (State.reset.memory.write 0x300 7).write 0x300 0 = State.reset.memory ∧
    (State.reset.memory.write 0x000 0).cells = [(0, 0)] ∧ (State.reset.memory.write 0x000 0xF0).cells = [] := by decide

/-! ### 44_display.md R172 against R171 (log 10) -/

/-- A one-row sprite, and a framebuffer whose eight pixels under it are already 1. -/
def litRow : State :=
  { start [] with
    i := 0x300, memory := State.reset.memory.write 0x300 0xFF,
    fb := Framebuffer.clear.set 0 ((Vector.replicate 64 false).set 0 true |>.set 1 true |>.set 2 true |>.set 3 true
      |>.set 4 true |>.set 5 true |>.set 6 true |>.set 7 true) }

/-- R171 by hand: the first draw turns eight 1 pixels to 0 (VF = 1), the second turns them to 1 again (VF = 0). R172's derived
'VF = 1 iff the sprite bytes contain at least one 1 bit' does not hold here. -/
theorem test_draw_twice_on_lit_pixels :
    answers (exec (.drw 0 1 1) litRow) (fun t => t.reg 0xF == 1 &&
      answers (exec (.drw 0 1 1) t) (fun u => u.reg 0xF == 0 && u.fb.pixel 0 0 && u.fb.pixel 0 7)) = true := by decide

/-! ### Witnesses: for every obligation with hypotheses a concrete case that meets them, at the ends of their ranges -/

/-- Reset memory with the two bytes of an instruction word at an address. -/
def withWord (a : Nat) (w : Word) : Memory := State.reset.memory.writeBytes a (bytesOfWord w)

theorem witness_EncodeOfDecodeIsTheWord :
    decodeWord 0x00E0 = .ok .cls ∧ decodeWord 0xFF65 = .ok (.loadRegs 0xF) := by decide

theorem witness_DecodesExactlyTheTableWords : wellFormedWord 0xFF65 = true ∧ wellFormedWord 0xFF66 = false := by decide

theorem witness_NoWordSelectsTwoRows :
    Instr.cls.row ∈ opcodeTable ∧ Instr.cls.row.selects 0x00E0 = true ∧ (Instr.loadRegs 0xF).row ∈ opcodeTable ∧
    (Instr.loadRegs 0xF).row.selects 0xFF65 = true := by decide

theorem witness_FetchReadsHighByteFirst : ({ start [] with pc := 0xFFE } : State).pc.toNat ≤ 0xFFE := by decide

/-- The last address a fetch reaches, and an odd one. -/
def atTop : State := { start [] with pc := 0xFFE, memory := withWord 0xFFE 0x8014 }
def atOdd : State := { start [] with pc := 0x201, memory := withWord 0x201 0x8014 }

theorem witness_StepRunsTheDecodedInstruction :
    (atTop.fault = .none ∧ atTop.pc.toNat ≤ 0xFFE ∧
      decodeBytes [atTop.memory.read atTop.pc.toNat, atTop.memory.read (atTop.pc.toNat + 1)] = .ok (.addReg 0 1, [])) ∧
    (atOdd.fault = .none ∧ atOdd.pc.toNat ≤ 0xFFE ∧
      decodeBytes [atOdd.memory.read atOdd.pc.toNat, atOdd.memory.read (atOdd.pc.toNat + 1)] = .ok (.addReg 0 1, [])) := by
  decide

theorem witness_FetchAndDecodeFaultsAreTaken :
    (0xFFE < ({ start [] with pc := 0xFFF } : State).pc.toNat ∧ (start []).fault = .none) ∧
    (({ start [] with pc := 0xFFE } : State).pc.toNat ≤ 0xFFE ∧
      wellFormedWord (wordOfBytes (State.reset.memory.read 0xFFE) (State.reset.memory.read 0xFFF)) = false) := by decide

theorem witness_HaltedStepChangesNothing : ({ start [] with fault := .stackOverflow } : State).fault ≠ .none := by decide

theorem witness_StepFaultIsTheFirstCause : atTop.fault = .none := by decide

theorem witness_FaultingStepChangesOnlyTheFaultRegister :
    ∃ t : State, State.reset.fault = .none ∧ step State.reset = .next t ∧ t.fault ≠ .none :=
  ⟨{ State.reset with fault := .unknownOpcode }, by decide, rfl, by decide⟩

/-- A store at the end of memory is the next instruction. -/
def storing : State := { start [(0, 0xAA), (1, 0xBB)] with i := 0xFFE, memory := withWord 0x200 0xF155 }

theorem witness_StepKeepsTheInvariant :
    storing.Inv ∧ answers (step storing) (fun t => t.memory.read 0xFFF == 0xBB && t.fault == .none) = true :=
  ⟨show storing.memory.wf by decide, by decide⟩

/-- A run in which a fault is recorded, a program is loaded and the timers count, and then the block is reset. -/
def someOps : List HostOp := [.step false 0x5A, .tick, .loadProgram [0x12, 0x00], .setKeyState 0xF true, .reset moveI]

theorem witness_RunsKeepTheInvariant :
    State.reset.Inv ∧ answers (runOps someOps State.reset) (fun t => t.quirks == moveI && t.fault == .none) = true :=
  ⟨show State.reset.memory.wf by decide, by decide⟩

theorem witness_DrawFlagHasOnlyItsWriters :
    answers (exec .cls { start [] with drawFlag := false }) (fun t => t.drawFlag) = true ∧
    answers (exec (.drw 0 0 0xF) { start [] with drawFlag := false, i := 0xFF1 }) (fun t => t.drawFlag) = true ∧
    answers (exec (.drw 0 0 0xF) { start [] with drawFlag := false, i := 0xFF2 })
      (fun t => !t.drawFlag && t.fault == .memoryAddressOutOfRange) = true ∧
    answers (exec (.ldImm 0xF 0xFF) { start [] with drawFlag := false }) (fun t => !t.drawFlag) = true ∧
    answers (stepOp true 0xFF { start [] with drawFlag := false, pc := 0xFFE, memory := withWord 0xFFE 0x00E0 })
      (fun t => t.drawFlag) = true := by decide

/-- The two sides of the sprite check of that obligation. -/
theorem witness_DrawFlag_sprite :
    SpriteInMemory { start [] with i := 0xFF1 } 0xF ∧ ¬ SpriteInMemory { start [] with i := 0xFF2 } 0xF :=
  ⟨.inr (by decide), fun h => h.elim (by decide) (by decide)⟩

/-- Each antecedent is met: memory, I (three ways), the stack (two ways), DT, ST, a pixel. -/
theorem witness_EachFieldHasOnlyItsWriters :
    answers (exec (.ldB 0) { start [(0, 255)] with i := 0xFFD }) (fun t => t.memory.read 0xFFF != 0) = true ∧
    answers (exec (.ldI 0xFFF) (start [])) (fun t => t.i != 0) = true ∧
    answers (exec (.addI 0) { start [(0, 1)] with i := 0xFFFF }) (fun t => t.i != 0xFFFF) = true ∧
    answers (exec (.loadRegs 0) (withQuirks (start []) moveI)) (fun t => t.i != 0) = true ∧
    answers (exec (.call 0xFFF) { start [] with sp := 15 }) (fun t => t.sp != 15 && t.stack[15] != 0) = true ∧
    answers (exec .ret { start [] with sp := 16 }) (fun t => t.sp != 16) = true ∧
    answers (exec (.ldDtVx 0) (start [(0, 1)])) (fun t => t.dt != 0) = true ∧
    answers (exec (.ldStVx 0) (start [(0, 1)])) (fun t => t.st != 0) = true ∧
    answers (exec .cls { start [] with fb := Framebuffer.clear.toggle 31 63 }) (fun t => !t.fb.pixel 31 63) = true := by decide

/-- RND at the last fetch address. -/
def atRnd : State := { start [] with pc := 0xFFE, memory := withWord 0xFFE 0xC30F }

theorem witness_RandomIsTheInputMasked :
    (atRnd.fault = .none ∧ atRnd.pc.toNat ≤ 0xFFE ∧
      decodeBytes [atRnd.memory.read atRnd.pc.toNat, atRnd.memory.read (atRnd.pc.toNat + 1)] = .ok (.rnd 3 0x0F, [])) ∧
    answers (stepOp true 0xAB atRnd) (fun t => t.reg 3 == 0x0B) = true := by decide

/-- A Step whose word is no RND, and one that fetches nothing at all. -/
theorem witness_TraceAndUnusedRandomByteChangeNothing :
    (∃ t, stepOp false 0 atTop = .next t) ∧
    (∀ x nn, decodeBytes [atTop.memory.read atTop.pc.toNat, atTop.memory.read (atTop.pc.toNat + 1)] ≠ .ok (.rnd x nn, [])) ∧
    (∃ t, stepOp true 0xFF { atTop with pc := 0xFFFF } = .next t) := by
  refine ⟨⟨_, rfl⟩, fun x nn => ?_, ⟨_, rfl⟩⟩
  rw [show decodeBytes [atTop.memory.read atTop.pc.toNat, atTop.memory.read (atTop.pc.toNat + 1)] = .ok (.addReg 0 1, []) by
    decide]
  simp

theorem witness_LatchQuirksAndFontAreReadOnly :
    answers (step (setKeyState 0xF true storing)) (fun t => t.keyPressed 0xF && t.fault == .none) = true := by decide

/-- All three antecedents are met: the first two by LD VX, NN, each by the other's exception, the third by LD ST, VX. -/
theorem witness_RandomByteAndSoundTimerAreNotReadByOthers :
    (∃ t, exec (.ldImm 0xF 0xFF) (start []) = .next t) ∧ (∀ x nn, Instr.ldImm 0xF 0xFF ≠ .rnd x nn) ∧
    (∀ x, Instr.ldImm 0xF 0xFF ≠ .ldStVx x) ∧ (∃ t, exec (.rnd 0 0xFF) (start []) = .next t) ∧
    (∀ x, Instr.rnd 0 0xFF ≠ .ldStVx x) ∧ (∃ t, exec (.ldStVx 0) (start []) = .next t) ∧
    (∀ x nn, Instr.ldStVx 0 ≠ .rnd x nn) :=
  ⟨⟨_, rfl⟩, by simp, by simp, ⟨_, rfl⟩, by simp, ⟨_, rfl⟩, by simp⟩

/-- An instruction that faults, and one that completes at the top of the 16-bit PC. -/
theorem witness_NextPcFollowsTheTable :
    answers (exec .ret (start [])) (fun t => t.fault != .none && t.pc == 0x200) = true ∧
    answers (exec (.ldImm 0 1) { start [] with pc := 0xFFFE }) (fun t => t.fault == .none && t.pc == 0) = true ∧
    (start []).fault = .none := by decide

/-- The first run draws nothing and ends with drawFlag 0; the premise excludes a run that acknowledges a draw. -/
theorem witness_ClearDrawFlagMeansUnchangedFramebuffer :
    (∀ op ∈ [HostOp.step false 0, HostOp.tick], op ≠ .acknowledgeDraw) ∧
    answers (runOps [.step false 0, .tick] { storing with drawFlag := false })
      (fun t => !t.drawFlag && t.fault == .none && t.pc == 0x202) = true := by decide

theorem witness_FaultStaysUntilReset :
    (∀ op ∈ [HostOp.step true 0xFF, HostOp.tick, HostOp.acknowledgeDraw], ∀ q, op ≠ .reset q) ∧
    ({ storing with fault := .stackUnderflow } : State).fault ≠ .none ∧
    answers (runOps [.step true 0xFF, .tick, .acknowledgeDraw] { storing with fault := .stackUnderflow })
      (fun t => t.fault == .stackUnderflow && t.pc == 0x200) = true :=
  ⟨by simp, by decide, by decide⟩

/-- The two corner cases: a jump to itself, and a jump to the last address. -/
theorem witness_JumpSetsPc :
    ({ start [] with pc := 0xABC } : State).pc.toNat = (0xABC : BitVec 12).toNat ∧ (0xFFF : BitVec 12) = 0xFFF ∧
    (start []).fault = .none := by decide

theorem witness_CallPushesTheNextAddress :
    ({ start [] with sp := 0 } : State).sp.val < 16 ∧ ({ start [] with sp := 15 } : State).sp.val < 16 := by decide

theorem witness_ReturnPopsTheAddress :
    0 < ({ start [] with sp := 1 } : State).sp.val ∧ 0 < ({ start [] with sp := 16 } : State).sp.val := by decide

theorem witness_CallAndReturnFaultAtTheEnds :
    ({ start [] with sp := 16 } : State).sp.val = 16 ∧ (start []).sp.val = 0 := by decide

theorem witness_CallThenReturnResumesAfterTheCall : ({ start [] with sp := 15 } : State).sp.val < 16 := by decide

theorem witness_JumpWithOffsetAddsTheRegister :
    (start []).quirks.jumpWithOffsetUsesVx = false ∧ (withQuirks (start []) jumpX).quirks.jumpWithOffsetUsesVx = true := by
  decide

/-- The conditions of the six skips can hold and can fail. -/
theorem witness_Skips :
    SkipsWhen ((start [(1, 7)]).reg 1 = 7) (start [(1, 7)]) ((start [(1, 7)]).setPc 0x204) ∧
    SkipsWhen ((start [(1, 7)]).reg 1 = 8) (start [(1, 7)]) ((start [(1, 7)]).setPc 0x202) := by
  constructor
  · refine ⟨fun _ => rfl, fun h => absurd (by decide) h, fun _ => rfl, fun _ => rfl, rfl, ?_, rfl, rfl⟩
    exact ⟨⟨rfl, fun _ => rfl⟩, ⟨rfl, rfl⟩, ⟨rfl, fun _ _ => rfl⟩, rfl, rfl, rfl, rfl⟩
  · refine ⟨fun h => absurd h (by decide), fun _ => rfl, fun _ => rfl, fun _ => rfl, rfl, ?_, rfl, rfl⟩
    exact ⟨⟨rfl, fun _ => rfl⟩, ⟨rfl, rfl⟩, ⟨rfl, fun _ _ => rfl⟩, rfl, rfl, rfl, rfl⟩

/-- One case for each of the three operations, the last with the destination VF, and both quirk values. -/
theorem witness_LogicOperationsClearVfUnderTheQuirk :
    (∃ op r, op = Instr.orReg 0 1 ∧ r = (start []).reg 0 ||| (start []).reg 1) ∧
    (∃ op r, op = Instr.andReg 0 1 ∧ r = (start []).reg 0 &&& (start []).reg 1) ∧
    (∃ op r, op = Instr.xorReg 0xF 1 ∧ r = (start []).reg 0xF ^^^ (start []).reg 1) ∧
    (start []).quirks.logicOpsResetVf = true ∧ (withQuirks (start []) keepVf).quirks.logicOpsResetVf = false :=
  ⟨⟨_, _, rfl, rfl⟩, ⟨_, _, rfl, rfl⟩, ⟨_, _, rfl, rfl⟩, by decide, by decide⟩

theorem witness_ShiftsSetTheBitShiftedOut :
    (0xFF : Byte) = (if (withQuirks (start [(1, 0xFF)]) shiftY).quirks.shiftUsesVy then
      (withQuirks (start [(1, 0xFF)]) shiftY).reg 1 else (withQuirks (start [(1, 0xFF)]) shiftY).reg 0) ∧
    (0x00 : Byte) = (if (start [(1, 0xFF)]).quirks.shiftUsesVy then (start [(1, 0xFF)]).reg 1 else (start [(1, 0xFF)]).reg 0) := by
  decide

theorem witness_BcdStoresThreeDigits : ({ start [] with i := 0xFFD } : State).i.toNat + 2 ≤ 0xFFF := by decide

theorem witness_StoreRegistersCopiesToMemory :
    ({ start [] with i := 0xFF0 } : State).i.toNat + (0xF : RegIndex).toNat ≤ 0xFFF ∧
    ({ start [] with i := 0xFFF } : State).i.toNat + (0x0 : RegIndex).toNat ≤ 0xFFF := by decide

theorem witness_LoadRegistersCopiesFromMemory :
    ({ start [] with i := 0xFF0 } : State).i.toNat + (0xF : RegIndex).toNat ≤ 0xFFF ∧
    ({ start [] with i := 0xFFF } : State).i.toNat + (0x0 : RegIndex).toNat ≤ 0xFFF := by decide

/-- The lowest I at which each access leaves memory. -/
theorem witness_AccessPastMemoryFaults :
    0xFFF < ({ start [] with i := 0xFFE } : State).i.toNat + 2 ∧
    0xFFF < ({ start [] with i := 0xFF1 } : State).i.toNat + (0xF : RegIndex).toNat ∧
    (0 < (0xF : BitVec 4).toNat ∧ 0xFFF < ({ start [] with i := 0xFF2 } : State).i.toNat + (0xF : BitVec 4).toNat - 1) ∧
    (0 < (0x1 : BitVec 4).toNat ∧ 0xFFF < ({ start [] with i := 0x1000 } : State).i.toNat + (0x1 : BitVec 4).toNat - 1) := by
  decide

/-- The last place a sprite fits, and N = 0 with I outside memory. -/
theorem witness_SpriteInMemory :
    SpriteInMemory { start [] with i := 0xFF1 } 0xF ∧ SpriteInMemory { start [] with i := 0xFFFF } 0 :=
  ⟨.inr (by decide), .inl rfl⟩

/-- A covered pixel and one that is not, a draw that collides and one that does not. -/
theorem witness_DrawXorsTheSprite :
    SpriteCovers litRow 0 1 1 0 7 ∧ ¬ SpriteCovers litRow 0 1 1 0 8 ∧
    answers (exec (.drw 0 1 1) litRow) (fun t => litRow.fb.pixel 0 7 && !t.fb.pixel 0 7) = true ∧
    answers (exec (.drw 0 1 1) { litRow with fb := Framebuffer.clear }) (fun t => t.fb.pixel 0 7 && t.reg 0xF == 0) = true := by
  refine ⟨⟨0, by decide, 7, by decide, by decide, by decide, by decide⟩, ?_, by decide, by decide⟩
  rintro ⟨r, hr, c, hc, _, _, hx⟩
  have h0 : (litRow.reg 0).toNat % 64 = 0 := by decide
  rw [h0] at hx
  have h8 : ((8 : Fin 64)).val = 8 := rfl
  omega

/-- X and Y other than F; over a clear framebuffer the first draw turns pixels on and the second sets VF, over lit pixels
(test_draw_twice_on_lit_pixels) neither; the sprite byte is not 0, and nothing under it is lit in the clear framebuffer. -/
theorem witness_DrawTwiceRestoresTheFramebuffer :
    (0x0 : RegIndex) ≠ 0xF ∧ (0xE : RegIndex) ≠ 0xF ∧ SpriteInMemory litRow 1 ∧
    (∃ r < (1 : BitVec 4).toNat, litRow.memory.read (litRow.i.toNat + r) ≠ 0) ∧
    (∀ (py : Fin 32) (px : Fin 64), Framebuffer.clear.pixel py px = false) ∧
    answers (exec (.drw 0 0xE 1) { litRow with fb := Framebuffer.clear }) (fun t => t.fb.pixel 0 0 &&
      answers (exec (.drw 0 0xE 1) t) (fun u => u.reg 0xF == 1)) = true :=
  ⟨by decide, by decide, .inr (by decide), ⟨0, by decide, by decide⟩, Framebuffer.pixel_clear, by decide⟩

/-- No key pressed; key F alone; keys 7 and B, of which 7 is the lowest. -/
theorem witness_KeyWaitTakesTheLowestKey :
    (∀ k, (start []).keyPressed k = false) ∧
    ((setKeyState 0xF true (start [])).keyPressed 0xF = true ∧
      ∀ j : KeyCode, j.toNat < (0xF : KeyCode).toNat → (setKeyState 0xF true (start [])).keyPressed j = false) ∧
    ((setKeyState 0xB true (setKeyState 7 true (start []))).keyPressed 7 = true ∧
      ∀ j : KeyCode, j.toNat < (7 : KeyCode).toNat →
        (setKeyState 0xB true (setKeyState 7 true (start []))).keyPressed j = false) := by decide

/-- Stores that end at the last address, and the shortest store. -/
theorem witness_StoredBytesAreFetchedNext :
    (1 ≤ (0xF : RegIndex).toNat ∧ ({ start [] with pc := 0xFEE, i := 0xFF0 } : State).i = 0xFEE + 2 ∧
      0xFEE + 2 + (0xF : RegIndex).toNat ≤ 0xFFF) ∧
    (1 ≤ (0x1 : RegIndex).toNat ∧ ({ start [] with pc := 0xFFC, i := 0xFFE } : State).i = 0xFFC + 2 ∧
      0xFFC + 2 + (0x1 : RegIndex).toNat ≤ 0xFFF) := by decide

theorem witness_LoadProgramCopiesOrRefuses :
    0xE00 < (List.replicate 0xE01 (0 : Byte)).length ∧ (List.replicate 0xE00 (0 : Byte)).length ≤ 0xE00 ∧
    ([] : List Byte).length ≤ 0xE00 := by
  rw [List.length_replicate, List.length_replicate]; decide

theorem witness_FaultPortGivesTheCode :
    (start []).fault = .none ∧ ({ start [] with fault := .stackOverflow } : State).fault = .stackOverflow ∧
    ({ start [] with fault := .stackUnderflow } : State).fault = .stackUnderflow ∧
    ({ start [] with fault := .unknownOpcode } : State).fault = .unknownOpcode ∧
    ({ start [] with fault := .memoryAddressOutOfRange } : State).fault = .memoryAddressOutOfRange := by decide

end Sys2Proof.Tests
end

/-! ### Every run keeps the invariant (00_scope.md R12, 20_memory.md R53, R58, 70_reset_and_hazards.md R237)

Memory changes in four places only: LD B and LD [I], each behind its range check, LoadProgram, behind its length check, and Reset.
The lemmas say so place by place; `runOps_preserves` carries a property of one operation to a run. -/

namespace Sys2Proof.Machine

/-! #### What an instruction does to memory -/

/-- Taking a fault writes the fault register alone (60_exceptions.md R203). -/
@[simp] theorem raiseFault_eq_next {kind : FaultCode} {s t : State} :
    raiseFault kind s = .next t ↔ t = { s with fault := kind } := by
  simp [raiseFault, eq_comm]

theorem raiseFault_memory {kind : FaultCode} {s t : State} (h : raiseFault kind s = .next t) : t.memory = s.memory := by
  rw [raiseFault_eq_next.1 h]

@[simp] theorem writeLogicResult_memory (x : RegIndex) (b : Byte) (s : State) :
    (writeLogicResult x b s).memory = s.memory := by
  simp [writeLogicResult]

theorem execCall_memory {nnn : BitVec 12} {s t : State} (h : execCall nnn s = .next t) : t.memory = s.memory := by
  rcases Nat.lt_or_ge s.sp.val 16 with hfree | hfull
  · rw [execCall_free nnn hfree] at h; cases h; rfl
  · rw [execCall_full nnn (by omega)] at h; exact raiseFault_memory h

theorem execRet_memory {s t : State} (h : execRet s = .next t) : t.memory = s.memory := by
  rcases Nat.eq_zero_or_pos s.sp.val with hempty | hused
  · rw [execRet_empty hempty] at h; exact raiseFault_memory h
  · rw [execRet_used hused] at h; cases h; rfl

theorem execDrw_memory {x y : RegIndex} {n : BitVec 4} {s t : State} (h : execDrw x y n s = .next t) :
    t.memory = s.memory := by
  by_cases hin : n.toNat = 0 ∨ s.i.toNat + n.toNat - 1 ≤ 0xFFF
  · rw [execDrw_inside x y n hin] at h; cases h; rfl
  · rw [execDrw_outside x y n (by omega) (by omega)] at h; exact raiseFault_memory h

theorem execLoadRegs_memory {x : RegIndex} {s t : State} (h : execLoadRegs x s = .next t) : t.memory = s.memory := by
  rcases Nat.lt_or_ge 0xFFF (s.i.toNat + x.toNat) with hout | hin
  · rw [execLoadRegs_outside x hout] at h; exact raiseFault_memory h
  · rw [execLoadRegs_inside x hin] at h; cases h; rfl

theorem execLdVxK_memory {x : RegIndex} {s t : State} (h : execLdVxK x s = .next t) : t.memory = s.memory := by
  cases hk : s.lowestKey with
  | none => rw [execLdVxK_waits x hk] at h; cases h; rfl
  | some k => rw [execLdVxK_pressed x hk] at h; cases h; rfl

/-- LD B faults, or stores its digits inside memory (43_index_memory.md R153). -/
theorem execLdB_memory {x : RegIndex} {s t : State} (h : execLdB x s = .next t) :
    t.memory = s.memory ∨
    (s.i.toNat + 2 ≤ 0xFFF ∧ t.memory = s.memory.writeBytes s.i.toNat (bcdDigits (s.reg x))) := by
  rcases Nat.lt_or_ge 0xFFF (s.i.toNat + 2) with hout | hin
  · rw [execLdB_outside x hout] at h; exact .inl (raiseFault_memory h)
  · rw [execLdB_inside x hin] at h; cases h; exact .inr ⟨hin, rfl⟩

/-- LD [I] faults, or stores V0..VX inside memory (43_index_memory.md R154). -/
theorem execStoreRegs_memory {x : RegIndex} {s t : State} (h : execStoreRegs x s = .next t) :
    t.memory = s.memory ∨
    (s.i.toNat + x.toNat ≤ 0xFFF ∧ t.memory = s.memory.writeBytes s.i.toNat (s.regBytes (moveCount x))) := by
  rcases Nat.lt_or_ge 0xFFF (s.i.toNat + x.toNat) with hout | hin
  · rw [execStoreRegs_outside x hout] at h; exact .inl (raiseFault_memory h)
  · rw [execStoreRegs_inside x hin] at h; cases h; exact .inr ⟨hin, rfl⟩

/-- What an instruction can do to memory: nothing, or the store of LD B or of LD [I], inside the address space. -/
theorem exec_memory_cases {i : Instr} {s t : State} (h : exec i s = .next t) :
    t.memory = s.memory ∨
    (∃ x, i = .ldB x ∧ s.i.toNat + 2 ≤ 0xFFF ∧
      t.memory = s.memory.writeBytes s.i.toNat (bcdDigits (s.reg x))) ∨
    (∃ x, i = .storeRegs x ∧ s.i.toNat + x.toNat ≤ 0xFFF ∧
      t.memory = s.memory.writeBytes s.i.toNat (s.regBytes (moveCount x))) := by
  cases i with
  | ldB x => exact (execLdB_memory h).imp_right fun hstore => .inl ⟨x, rfl, hstore⟩
  | storeRegs x => exact (execStoreRegs_memory h).imp_right fun hstore => .inr ⟨x, rfl, hstore⟩
  | call nnn => exact .inl (execCall_memory h)
  | ret => exact .inl (execRet_memory h)
  | drw x y n => exact .inl (execDrw_memory h)
  | loadRegs x => exact .inl (execLoadRegs_memory h)
  | ldVxK x => exact .inl (execLdVxK_memory h)
  | orReg x y | andReg x y | xorReg x y => cases h; exact .inl (writeLogicResult_memory x _ s)
  | addI x => cases h; exact .inl (State.setFlagIf_memory _ _ _)
  | _ => cases h; exact .inl rfl

/-! #### One operation -/

theorem State.Inv.of_memory_eq {s t : State} (hs : s.Inv) (h : t.memory = s.memory) : t.Inv := by
  unfold State.Inv; rw [h]; exact hs

/-- A state whose memory is that of `s` with a block stored inside the address space meets the invariant. -/
theorem State.Inv.of_memory_eq_writeBytes {s t : State} (hs : s.Inv) {a : Nat} {bs : List Byte}
    (hin : a + bs.length ≤ 4096) (h : t.memory = s.memory.writeBytes a bs) : t.Inv := by
  unfold State.Inv; rw [h]; exact Memory.writeBytes_wf hs bs hin

theorem exec_preserves_inv {i : Instr} {s t : State} (hs : s.Inv) (h : exec i s = .next t) : t.Inv := by
  obtain hsame | ⟨x, -, hin, hmem⟩ | ⟨x, -, hin, hmem⟩ := exec_memory_cases h
  · exact hs.of_memory_eq hsame
  · exact hs.of_memory_eq_writeBytes (by simp only [bcdDigits, List.length_cons, List.length_nil]; omega) hmem
  · exact hs.of_memory_eq_writeBytes (by rw [State.regBytes_length, moveCount]; omega) hmem

theorem step_preserves_inv {s t : State} (hs : s.Inv) (h : step s = .next t) : t.Inv := by
  obtain ⟨-, hstep⟩ | ⟨-, -, hstep⟩ | ⟨-, -, w, e, -, -, hstep⟩ | ⟨-, -, w, i, -, -, hstep⟩ := step_cases s <;>
    rw [hstep] at h
  · cases h; exact hs
  · cases h; exact hs.of_memory_eq rfl
  · cases h; exact hs.of_memory_eq rfl
  · exact exec_preserves_inv hs h

/-- The power-on memory lists no cell, whatever the FONT and the quirks (70_reset_and_hazards.md R230). -/
theorem State.powerOn_inv (font : Font) (q : Quirks) (rnd : Byte) (draws : Nat) : (State.powerOn font q rnd draws).Inv :=
  ⟨List.Pairwise.nil, fun _ hc => absurd hc List.not_mem_nil⟩

/-- A program that LoadProgram takes ends at 0xFFF or below: 0x200 + 0xE00 = 0x1000 (20_memory.md R58). -/
theorem loadProgram_preserves_inv {s : State} (hs : s.Inv) (bytes : List Byte) : (loadProgram bytes s).2.Inv := by
  unfold loadProgram
  split
  · exact hs
  next hfits =>
    have hin : 0x200 + bytes.length ≤ 4096 := Nat.add_le_add_left (Nat.le_of_not_lt hfits) 0x200
    exact hs.of_memory_eq_writeBytes hin rfl

theorem applyOp_preserves_inv {op : HostOp} {s t : State} (hs : s.Inv) (h : applyOp op s = .next t) : t.Inv := by
  cases op with
  | reset q => cases h; exact State.powerOn_inv _ _ _ _
  | loadProgram bytes => cases h; exact loadProgram_preserves_inv hs bytes
  | step traceEnabled rnd => exact step_preserves_inv (s := { s with rnd := rnd }) (hs.of_memory_eq rfl) h
  | tick | setKeyState k pressed | acknowledgeDraw => cases h; exact hs.of_memory_eq rfl

/-! #### Runs of operations -/

/-- A run of an operation and more operations answers when the operation does and the rest does from there. -/
theorem runOps_cons_eq_next {op : HostOp} {ops : List HostOp} {s t : State} :
    runOps (op :: ops) s = .next t ↔ ∃ u, applyOp op s = .next u ∧ runOps ops u = .next t := by
  rw [runOps]
  cases applyOp op s <;> simp

/-- The induction over a run: what each of its operations keeps, the run keeps (70_reset_and_hazards.md R237). -/
theorem runOps_preserves {P : State → Prop} {ops : List HostOp}
    (hop : ∀ op ∈ ops, ∀ s t : State, P s → applyOp op s = .next t → P t) {s t : State} (hs : P s)
    (h : runOps ops s = .next t) : P t := by
  induction ops generalizing s with
  | nil => cases h; exact hs
  | cons op ops ih =>
    obtain ⟨u, hu, hrest⟩ := runOps_cons_eq_next.1 h
    have hPu : P u := hop op List.mem_cons_self s u hs hu
    exact ih (fun o ho => hop o (List.mem_cons_of_mem _ ho)) hPu hrest

/-- Settles O16: each operation keeps the invariant, so a run does, by induction over its operations. -/
theorem runsKeepTheInvariant : Obligations.RunsKeepTheInvariant := by
  unfold Obligations.RunsKeepTheInvariant
  exact fun _ _ _ hs hrun => runOps_preserves (fun _ _ _ _ => applyOp_preserves_inv) hs hrun

end Sys2Proof.Machine

/-! ### Who writes which field, and where PC goes (10_state.md R20, R25 to R34)

An instruction either faults, and then writes the fault register alone, or completes within the frame `WriterFrame`; memory is
`exec_memory_cases`. The inversion lemmas of the checked meanings and `exec_cases` say so once, and `step_runs_or_keeps` carries it
to a Step. -/

namespace Sys2Proof.Machine

/-! #### What a meaning that checks something can answer -/

/-- CALL faults on a full stack, or pushes and jumps (41_control.md R112). -/
theorem execCall_cases {nnn : BitVec 12} {s t : State} (h : execCall nnn s = .next t) :
    (s.sp.val = 16 ∧ t = { s with fault := .stackOverflow }) ∨
    ∃ hfree : s.sp.val < 16, t = State.setPc
      { s with stack := s.stack.set s.sp.val (s.pc + 2) hfree, sp := ⟨s.sp.val + 1, Nat.succ_lt_succ hfree⟩ }
      (zextAddr nnn) := by
  rcases Nat.lt_or_ge s.sp.val 16 with hfree | hfull
  · rw [execCall_free nnn hfree] at h; cases h; exact .inr ⟨hfree, rfl⟩
  · have hfull : s.sp.val = 16 := by omega
    rw [execCall_full nnn hfull] at h; exact .inl ⟨hfull, raiseFault_eq_next.1 h⟩

/-- RET faults on an empty stack, or pops and jumps (41_control.md R113). -/
theorem execRet_cases {s t : State} (h : execRet s = .next t) :
    (s.sp.val = 0 ∧ t = { s with fault := .stackUnderflow }) ∨
    ∃ hused : 0 < s.sp.val, t = State.setPc
      { s with sp := ⟨s.sp.val - 1, by omega⟩ } (s.stack[s.sp.val - 1]'(by omega)) := by
  rcases Nat.eq_zero_or_pos s.sp.val with hempty | hused
  · rw [execRet_empty hempty] at h; exact .inl ⟨hempty, raiseFault_eq_next.1 h⟩
  · rw [execRet_used hused] at h; cases h; exact .inr ⟨hused, rfl⟩

/-- DRW faults if its sprite leaves memory, or draws (44_display.md R171). -/
theorem execDrw_cases {x y : RegIndex} {n : BitVec 4} {s t : State} (h : execDrw x y n s = .next t) :
    (¬ SpriteInMemory s n ∧ t = { s with fault := .memoryAddressOutOfRange }) ∨
    (SpriteInMemory s n ∧
      t = ((s.setDisplay (drawSprite s x y n).1).setFlag (drawSprite s x y n).2).advance) := by
  by_cases hin : SpriteInMemory s n
  · rw [execDrw_inside x y n hin] at h; cases h; exact .inr ⟨hin, rfl⟩
  · have hout := hin
    unfold SpriteInMemory at hout
    rw [execDrw_outside x y n (by omega) (by omega)] at h; exact .inl ⟨hin, raiseFault_eq_next.1 h⟩

/-- LD B faults if a digit would leave memory, or stores the digits (43_index_memory.md R153). -/
theorem execLdB_cases {x : RegIndex} {s t : State} (h : execLdB x s = .next t) :
    (0xFFF < s.i.toNat + 2 ∧ t = { s with fault := .memoryAddressOutOfRange }) ∨
    (s.i.toNat + 2 ≤ 0xFFF ∧
      t = (s.setMemory (s.memory.writeBytes s.i.toNat (bcdDigits (s.reg x)))).advance) := by
  rcases Nat.lt_or_ge 0xFFF (s.i.toNat + 2) with hout | hin
  · rw [execLdB_outside x hout] at h; exact .inl ⟨hout, raiseFault_eq_next.1 h⟩
  · rw [execLdB_inside x hin] at h; cases h; exact .inr ⟨hin, rfl⟩

/-- LD [I] faults if a register would leave memory, or stores V0..VX and moves I (43_index_memory.md R154). -/
theorem execStoreRegs_cases {x : RegIndex} {s t : State} (h : execStoreRegs x s = .next t) :
    (0xFFF < s.i.toNat + x.toNat ∧ t = { s with fault := .memoryAddressOutOfRange }) ∨
    (s.i.toNat + x.toNat ≤ 0xFFF ∧
      t = ((s.setMemory (s.memory.writeBytes s.i.toNat (s.regBytes (moveCount x)))).setI
        (indexAfterMove s x)).advance) := by
  rcases Nat.lt_or_ge 0xFFF (s.i.toNat + x.toNat) with hout | hin
  · rw [execStoreRegs_outside x hout] at h; exact .inl ⟨hout, raiseFault_eq_next.1 h⟩
  · rw [execStoreRegs_inside x hin] at h; cases h; exact .inr ⟨hin, rfl⟩

/-- LD VX, [I] faults if a byte lies outside memory, or loads V0..VX and moves I (43_index_memory.md R155). -/
theorem execLoadRegs_cases {x : RegIndex} {s t : State} (h : execLoadRegs x s = .next t) :
    (0xFFF < s.i.toNat + x.toNat ∧ t = { s with fault := .memoryAddressOutOfRange }) ∨
    (s.i.toNat + x.toNat ≤ 0xFFF ∧
      t = ((s.setRegBytes (s.memory.readBytes s.i.toNat (moveCount x))).setI (indexAfterMove s x)).advance) := by
  rcases Nat.lt_or_ge 0xFFF (s.i.toNat + x.toNat) with hout | hin
  · rw [execLoadRegs_outside x hout] at h; exact .inl ⟨hout, raiseFault_eq_next.1 h⟩
  · rw [execLoadRegs_inside x hin] at h; cases h; exact .inr ⟨hin, rfl⟩

/-- LD VX, K waits with no key pressed, or takes a pressed key (45_input_timers.md R182). -/
theorem execLdVxK_cases {x : RegIndex} {s t : State} (h : execLdVxK x s = .next t) :
    ((∀ k, s.keyPressed k = false) ∧ t = s) ∨
    ∃ k, s.keyPressed k = true ∧ t = (s.setReg x (k.setWidth 8)).advance := by
  cases hk : s.lowestKey with
  | none =>
    rw [execLdVxK_waits x hk] at h; cases h
    exact .inl ⟨State.lowestKey_eq_none.1 hk, rfl⟩
  | some k =>
    rw [execLdVxK_pressed x hk] at h; cases h
    exact .inr ⟨k, (State.lowestKey_spec hk).1, rfl⟩

/-! #### What an instruction can do -/

/-- The writers column of 10_state.md R20 for an instruction that completes: a field differs only if the instruction is one of
its writers, and the latch, the quirks and the fault register have none. Memory is `exec_memory_cases`; PC and the general
registers, which most instructions write, are left out. -/
structure WriterFrame (i : Instr) (s t : State) : Prop where
  index : t.i = s.i ∨ (∃ nnn, i = .ldI nnn) ∨ (∃ x, i = .addI x ∨ i = .ldF x) ∨
    (s.quirks.loadStoreIncrementsI = true ∧ ∃ x, i = .storeRegs x ∨ i = .loadRegs x)
  sp : t.sp = s.sp ∨ i = .ret ∨ ∃ nnn, i = .call nnn
  stack : t.stack = s.stack ∨ ∃ nnn, i = .call nnn
  dt : t.dt = s.dt ∨ ∃ x, i = .ldDtVx x
  st : t.st = s.st ∨ ∃ x, i = .ldStVx x
  display : (t.fb = s.fb ∧ t.drawFlag = s.drawFlag) ∨ (IsDisplayInstr i ∧ t.drawFlag = true)
  key : t.key = s.key
  quirks : t.quirks = s.quirks
  fault : t.fault = s.fault

/-- FX55 and FX65 move I only under the quirk (43_index_memory.md R154, R155). -/
theorem indexAfterMove_eq_or (s : State) (x : RegIndex) :
    indexAfterMove s x = s.i ∨ s.quirks.loadStoreIncrementsI = true := by
  unfold indexAfterMove
  cases s.quirks.loadStoreIncrementsI <;> simp

/-- What an instruction can do (40_engine.md R95): a fault, which writes the fault register alone, or a completion within its
frame. -/
theorem exec_cases {i : Instr} {s t : State} (h : exec i s = .next t) :
    (∃ kind, kind ≠ .none ∧ t = { s with fault := kind }) ∨ WriterFrame i s t := by
  cases i with
  | call nnn =>
    obtain ⟨-, rfl⟩ | ⟨-, rfl⟩ := execCall_cases h
    · exact .inl ⟨_, by decide, rfl⟩
    · right; constructor <;> simp
  | ret =>
    obtain ⟨-, rfl⟩ | ⟨-, rfl⟩ := execRet_cases h
    · exact .inl ⟨_, by decide, rfl⟩
    · right; constructor <;> simp
  | drw x y n =>
    obtain ⟨-, rfl⟩ | ⟨-, rfl⟩ := execDrw_cases h
    · exact .inl ⟨_, by decide, rfl⟩
    · right; constructor <;> simp [IsDisplayInstr]
  | ldB x =>
    obtain ⟨-, rfl⟩ | ⟨-, rfl⟩ := execLdB_cases h
    · exact .inl ⟨_, by decide, rfl⟩
    · right; constructor <;> simp
  | storeRegs x =>
    obtain ⟨-, rfl⟩ | ⟨-, rfl⟩ := execStoreRegs_cases h
    · exact .inl ⟨_, by decide, rfl⟩
    · right; constructor <;> simp [indexAfterMove_eq_or]
  | loadRegs x =>
    obtain ⟨-, rfl⟩ | ⟨-, rfl⟩ := execLoadRegs_cases h
    · exact .inl ⟨_, by decide, rfl⟩
    · right; constructor <;> simp [indexAfterMove_eq_or]
  | ldVxK x =>
    right
    obtain ⟨-, rfl⟩ | ⟨k, -, rfl⟩ := execLdVxK_cases h <;> constructor <;> simp
  | orReg x y | andReg x y | xorReg x y => cases h; right; constructor <;> simp [writeLogicResult]
  | cls => cases h; right; constructor <;> simp [IsDisplayInstr]
  | addI x | ldI nnn | ldF x | ldDtVx x | ldStVx x => cases h; right; constructor <;> simp
  | _ => cases h; exact .inr ⟨.inl rfl, .inl rfl, .inl rfl, .inl rfl, .inl rfl, .inl ⟨rfl, rfl⟩, rfl, rfl, rfl⟩

/-- The draw flag and the pixels stay, or a display instruction sets the flag (10_state.md R31, R33). -/
theorem exec_display_cases {i : Instr} {s t : State} (h : exec i s = .next t) :
    (t.fb = s.fb ∧ t.drawFlag = s.drawFlag) ∨ (IsDisplayInstr i ∧ t.drawFlag = true) := by
  obtain ⟨_, -, rfl⟩ | hframe := exec_cases h
  · exact .inl ⟨rfl, rfl⟩
  · exact hframe.display

/-- No instruction writes the FONT (00_scope.md R10): a store changes cells. -/
theorem exec_font {i : Instr} {s t : State} (h : exec i s = .next t) : t.memory.font = s.memory.font := by
  obtain hmem | ⟨_, -, -, hmem⟩ | ⟨_, -, -, hmem⟩ := exec_memory_cases h <;> simp [hmem]

/-! #### What a Step can do -/

/-- A Step leaves everything but the fault register, or runs the instruction whose word is at PC (40_engine.md R90). -/
theorem step_runs_or_keeps {s t : State} (h : step s = .next t) :
    (∃ kind, t = { s with fault := kind }) ∨
    (s.CanFetch ∧ ∃ i, decodeBytes [s.memory.read s.pc.toNat, s.memory.read (s.pc.toNat + 1)] = .ok (i, []) ∧
      exec i s = .next t) := by
  obtain ⟨-, hstep⟩ | ⟨-, -, hstep⟩ | ⟨-, -, _, _, -, -, hstep⟩ | ⟨hf, hpc, w, i, hw, hd, hstep⟩ := step_cases s <;>
    rw [hstep] at h
  · cases h; exact .inl ⟨s.fault, rfl⟩
  · cases h; exact .inl ⟨_, rfl⟩
  · cases h; exact .inl ⟨_, rfl⟩
  · rw [State.fetch_of_le hpc] at hw
    cases hw
    exact .inr ⟨⟨hf, hpc⟩, i, decodeBytes_pair.2 hd, h⟩

/-! #### The draw flag, the writers and the read-only fields -/

/-- A Step that changes the draw flag sets it, and runs CLS or DRW (10_state.md R33). -/
theorem stepOp_drawFlag_ne {trace : Bool} {b : Byte} {s t : State} (h : stepOp trace b s = .next t)
    (hne : t.drawFlag ≠ s.drawFlag) :
    t.drawFlag = true ∧ s.CanFetch ∧ ∃ i, IsDisplayInstr i ∧
      decodeBytes [s.memory.read s.pc.toNat, s.memory.read (s.pc.toNat + 1)] = .ok (i, []) := by
  obtain ⟨_, rfl⟩ | ⟨hrun, i, hd, hexec⟩ := step_runs_or_keeps (s := { s with rnd := b }) h
  · exact absurd rfl hne
  · obtain ⟨-, hsame⟩ | ⟨hi, hset⟩ := exec_display_cases hexec
    · exact absurd hsame hne
    · exact ⟨hset, hrun, i, hi, hd⟩

theorem loadProgram_drawFlag (bytes : List Byte) (s : State) : (loadProgram bytes s).2.drawFlag = s.drawFlag := by
  unfold loadProgram
  split <;> rfl

/-- Settles O17: the display clause of the frame for the instructions, the check of DRW for its two exits, and
`step_runs_or_keeps` for a Step. -/
theorem drawFlagHasOnlyItsWriters : Obligations.DrawFlagHasOnlyItsWriters := by
  unfold Obligations.DrawFlagHasOnlyItsWriters
  refine ⟨fun s t h => ?cls, fun x y n s t h => ?drw, fun i s t hi h => ?other, fun _ _ _ _ => stepOp_drawFlag_ne,
    fun _ => rfl, fun _ _ => rfl, fun _ => rfl, fun _ _ _ => rfl, loadProgram_drawFlag⟩
  case cls => cases h; rfl
  case drw =>
    obtain ⟨hout, rfl⟩ | ⟨hin, rfl⟩ := execDrw_cases h
    · exact ⟨fun hin => absurd hin hout, fun _ => rfl⟩
    · exact ⟨fun _ => rfl, fun hout => absurd hin hout⟩
  case other => exact ((exec_display_cases h).resolve_right fun hd => hi hd.1).2

/-- Settles O18: `exec_memory_cases` for memory, the frame for every other field; a fault writes none of them. -/
theorem eachFieldHasOnlyItsWriters : Obligations.EachFieldHasOnlyItsWriters := by
  unfold Obligations.EachFieldHasOnlyItsWriters
  intro i s t h
  have hmem : (∃ a, t.memory.read a ≠ s.memory.read a) → ∃ x, i = .ldB x ∨ i = .storeRegs x := by
    rintro ⟨a, hne⟩
    obtain hsame | ⟨x, hi, -⟩ | ⟨x, hi, -⟩ := exec_memory_cases h
    · exact absurd (by rw [hsame]) hne
    · exact ⟨x, .inl hi⟩
    · exact ⟨x, .inr hi⟩
  refine ⟨hmem, ?_⟩
  obtain ⟨_, -, rfl⟩ | hframe := exec_cases h
  · simp
  · exact ⟨hframe.index.resolve_left, hframe.sp.resolve_left, hframe.stack.resolve_left, hframe.dt.resolve_left,
      hframe.st.resolve_left, fun hne => (hframe.display.resolve_left fun hsame => hne hsame.1).1⟩

/-- Settles O19: a Step leaves everything but the fault register or runs an instruction, whose frame holds the latch and the
quirks; FONT is `exec_font`. -/
theorem latchQuirksAndFontAreReadOnly : Obligations.LatchQuirksAndFontAreReadOnly := by
  unfold Obligations.LatchQuirksAndFontAreReadOnly
  intro s t h
  obtain ⟨_, rfl⟩ | ⟨-, i, -, hexec⟩ := step_runs_or_keeps h
  · exact ⟨rfl, rfl, rfl⟩
  · obtain ⟨_, -, rfl⟩ | hframe := exec_cases hexec
    · exact ⟨rfl, rfl, rfl⟩
    · exact ⟨hframe.key, hframe.quirks, exec_font hexec⟩

/-! #### The operands of the next PC -/

@[simp] theorem zextAddr_toNat (nnn : BitVec 12) : (zextAddr nnn).toNat = nnn.toNat := by
  have := nnn.isLt
  simp only [zextAddr, BitVec.toNat_setWidth]
  omega

/-- The target of BNNN is the exact sum: it is at most 0x10FE (41_control.md R114). -/
theorem zextAddr_add_zextByte_toNat (nnn : BitVec 12) (b : Byte) :
    (zextAddr nnn + zextByte b).toNat = nnn.toNat + b.toNat := by
  have := nnn.isLt
  have := b.isLt
  simp only [zextByte, BitVec.toNat_add, zextAddr_toNat, BitVec.toNat_setWidth]
  omega

/-- The register BNNN adds, X read as NNN / 0x100 (41_control.md R114). -/
theorem jumpRegister_eq (s : State) (nnn : BitVec 12) :
    jumpRegister s nnn = if s.quirks.jumpWithOffsetUsesVx then BitVec.ofNat 4 (nnn.toNat / 0x100) else 0 := by
  have hx : nnn.extractLsb' 8 4 = BitVec.ofNat 4 (nnn.toNat / 0x100) := by
    simp [BitVec.extractLsb', Nat.shiftRight_eq_div_pow]
  rw [jumpRegister, hx]

theorem lowNibble_eq_ofNat (b : Byte) : lowNibble b = BitVec.ofNat 4 b.toNat := by
  simp [lowNibble, BitVec.extractLsb']

/-! #### The next PC -/

/-- BNNN goes to NNN plus the register the quirk names, unmasked (41_control.md R114). -/
theorem execJpV0_pc {nnn : BitVec 12} {s t : State} (h : execJpV0 nnn s = .next t) :
    t.pc.toNat = nnn.toNat +
      (s.reg (if s.quirks.jumpWithOffsetUsesVx then BitVec.ofNat 4 (nnn.toNat / 0x100) else 0)).toNat := by
  cases h
  rw [← jumpRegister_eq]
  exact zextAddr_add_zextByte_toNat nnn _

/-- A fault leaves PC (60_exceptions.md R203). -/
theorem exec_pc_of_fault {i : Instr} {s t : State} (hs : s.fault = .none) (h : exec i s = .next t)
    (ht : t.fault ≠ .none) : t.pc = s.pc := by
  obtain ⟨_, -, rfl⟩ | hframe := exec_cases h
  · rfl
  · exact absurd (hframe.fault.trans hs) ht

/-- Settles O21: `exec_pc_of_fault` for a fault; else R27's row of each instruction, a check's fault exit being excluded by the
clear fault register. -/
theorem nextPcFollowsTheTable : Obligations.NextPcFollowsTheTable := by
  unfold Obligations.NextPcFollowsTheTable
  intro i s t hs h
  refine ⟨exec_pc_of_fault hs h, fun hok => ?_⟩
  cases i with
  | jp nnn => cases h; exact zextAddr_toNat nnn
  | call nnn =>
    obtain ⟨-, rfl⟩ | ⟨-, rfl⟩ := execCall_cases h
    · cases hok
    · exact zextAddr_toNat nnn
  | ret =>
    obtain ⟨-, rfl⟩ | ⟨hused, rfl⟩ := execRet_cases h
    · cases hok
    · exact ⟨⟨s.sp.val - 1, by omega⟩, Nat.sub_add_cancel hused, rfl⟩
  | jpV0 nnn => exact execJpV0_pc h
  | seImm x nn | sneImm x nn | seReg x y | sneReg x y => cases h; simp
  | skp x | sknp x => cases h; simp [lowNibble_eq_ofNat]
  | ldVxK x =>
    obtain ⟨hnone, rfl⟩ | ⟨k, hk, rfl⟩ := execLdVxK_cases h
    · exact (if_pos hnone).symm
    · exact (if_neg fun hnone => by simp [hnone k] at hk).symm
  | drw x y n =>
    obtain ⟨-, rfl⟩ | ⟨-, rfl⟩ := execDrw_cases h
    · cases hok
    · rfl
  | ldB x =>
    obtain ⟨-, rfl⟩ | ⟨-, rfl⟩ := execLdB_cases h
    · cases hok
    · rfl
  | storeRegs x =>
    obtain ⟨-, rfl⟩ | ⟨-, rfl⟩ := execStoreRegs_cases h
    · cases hok
    · rfl
  | loadRegs x =>
    obtain ⟨-, rfl⟩ | ⟨-, rfl⟩ := execLoadRegs_cases h
    · cases hok
    · rfl
  | orReg x y | andReg x y | xorReg x y => cases h; simp [writeLogicResult]
  | addI x => cases h; simp
  | _ => cases h; rfl

end Sys2Proof.Machine

/-! ### Memory: fetch, store, load and the range check (20_memory.md R50, R53, R58, R60, R63)

The laws of Laws/Memory.lean say what one write and one block do to every address; a meaning that reaches past 0xFFF has its
`_outside` equation in Laws/Exec.lean. Each statement is one of these at the address it names. -/

namespace Sys2Proof.Machine

/-- Settles O15: a Step keeps memory or stores a block behind its range check, so `step_preserves_inv` covers it. -/
theorem stepKeepsTheInvariant : Obligations.StepKeepsTheInvariant := by
  unfold Obligations.StepKeepsTheInvariant
  exact fun _ _ hs hstep => step_preserves_inv hs hstep

/-! #### A block at PC is what the next fetch reads -/

/-- With a block of at least two bytes stored at PC, the fetch reads its first two bytes (20_memory.md R50, R63). -/
theorem State.fetch_of_memory_eq_writeBytes {t : State} {m : Memory} {bs : List Byte} (hpc : t.pc.toNat ≤ 0xFFE)
    (hmem : t.memory = m.writeBytes t.pc.toNat bs) (hlen : 2 ≤ bs.length) :
    t.fetch = some (wordOfBytes bs[0] bs[1]) := by
  have hhigh : (m.writeBytes t.pc.toNat bs).read t.pc.toNat = bs[0] :=
    Memory.read_writeBytes_inside m t.pc.toNat bs 0 (by omega)
  have hlow := Memory.read_writeBytes_inside m t.pc.toNat bs 1 (by omega)
  rw [State.fetch_of_le hpc, hmem, hhigh, hlow]

/-- Settles O53: the store puts V0 and V1 at PC + 2, where the next fetch reads. -/
theorem storedBytesAreFetchedNext : Obligations.StoredBytesAreFetchedNext := by
  unfold Obligations.StoredBytesAreFetchedNext
  intro x s hx hi hin
  have hpc : (s.pc + 2).toNat = s.pc.toNat + 2 := by bv_omega
  have hin' : s.i.toNat + x.toNat ≤ 0xFFF := by rw [hi, hpc]; exact hin
  have hlen : 2 ≤ (s.regBytes (moveCount x)).length := by
    have := x.isLt
    rw [State.regBytes_length, moveCount]; omega
  refine ⟨_, execStoreRegs_inside x hin', ?_⟩
  rw [State.fetch_of_memory_eq_writeBytes (m := s.memory) (bs := s.regBytes (moveCount x)) ?inside ?stored hlen,
    State.regBytes_getElem _ _ 0 _ (by decide), State.regBytes_getElem _ _ 1 _ (by decide)]
  · rfl
  case inside => simp only [State.advance_pc, State.setI_pc, State.setMemory_pc]; omega
  case stored => exact congrArg (fun a => s.memory.writeBytes a.toNat _) hi

/-! #### LoadProgram -/

theorem loadProgram_tooLarge {bytes : List Byte} (s : State) (h : 0xE00 < bytes.length) :
    loadProgram bytes s = (.romTooLarge, s) := if_pos h

theorem loadProgram_fits {bytes : List Byte} (s : State) (h : bytes.length ≤ 0xE00) :
    loadProgram bytes s = (.ok, s.setMemory (s.memory.writeBytes 0x200 bytes)) := if_neg (Nat.not_lt.2 h)

/-- A change of memory that keeps FONT keeps the stack, the timers, the display and the host's state. -/
theorem State.setMemory_sameStackTimersDisplay {s : State} {m : Memory} (h : m.font = s.memory.font) :
    SameStackTimersDisplay s (s.setMemory m) :=
  ⟨⟨rfl, fun _ => rfl⟩, ⟨rfl, rfl⟩, ⟨rfl, fun _ _ => rfl⟩, rfl, rfl, rfl, h⟩

/-- Settles O54: past 0xE00 bytes the length check refuses; else the program is one block at 0x200. -/
theorem loadProgramCopiesOrRefuses : Obligations.LoadProgramCopiesOrRefuses := by
  unfold Obligations.LoadProgramCopiesOrRefuses
  refine fun bytes s => ⟨loadProgram_tooLarge s, fun hfits => ⟨_, loadProgram_fits s hfits, ?copied, ?outside, ?rest⟩⟩
  case copied => exact fun j => Memory.read_writeBytes_inside s.memory 0x200 bytes j.val j.isLt
  case outside => exact fun a ha => Memory.read_writeBytes_outside s.memory bytes ha
  case rest =>
    exact ⟨fun _ => rfl, rfl, rfl, State.setMemory_sameStackTimersDisplay (Memory.writeBytes_font _ _ _), rfl, rfl⟩

/-! #### The fetch, the range check and one byte -/

/-- Settles O7: the fetched word is the two bytes at PC, high byte first. -/
theorem fetchReadsHighByteFirst : Obligations.FetchReadsHighByteFirst := by
  unfold Obligations.FetchReadsHighByteFirst
  exact fun _ hpc => ⟨_, State.fetch_of_le hpc, wordOfBytes_high _ _, wordOfBytes_low _ _⟩

/-- Settles O45: each of the four meanings takes the fault side of its range check. -/
theorem accessPastMemoryFaults : Obligations.AccessPastMemoryFaults := by
  unfold Obligations.AccessPastMemoryFaults
  exact fun x y n _ => ⟨execLdB_outside x, fun hout => ⟨execStoreRegs_outside x hout, execLoadRegs_outside x hout⟩,
    execDrw_outside x y n⟩

/-- Settles O52: `Memory.read_write`, which holds of every memory, canonical or not. -/
theorem readGivesTheMostRecentWrite : Obligations.ReadGivesTheMostRecentWrite := by
  unfold Obligations.ReadGivesTheMostRecentWrite
  exact Memory.read_write

end Sys2Proof.Machine

/-! ### The decoder, the encoder and the opcode map (30_encoding.md R72, R80 to R82)

`Refused` is R82's list over the fields of a word. `decodeWord_cases` inverts the decoder once: a word is the code of the
instruction it decodes to, or it is refused and named. `not_refused_of_selects` and the two laws of `Instr.row` tie that to the
match and mask columns; every statement of the family is assembled from these. -/

namespace Sys2Proof

/-! #### Decode after encode -/

/-- The decoder inverts the formats: each field it reads is the operand the format put there (30_encoding.md R72, R81). -/
theorem decodeWord_encode (i : Instr) : decodeWord (encode i) = .ok i := by
  cases i with
  | cls | ret => rfl
  | jp nnn | call nnn | ldI nnn | jpV0 nnn => simp [encode, decodeWord]
  | seImm x nn | sneImm x nn | ldImm x nn | addImm x nn | rnd x nn => simp [encode, encodeXNN, decodeWord]
  | seReg x y | sneReg x y | drw x y n => simp [encode, encodeXYN, decodeWord]
  | ldReg x y | orReg x y | andReg x y | xorReg x y | addReg x y | sub x y | shr x y | subn x y | shl x y =>
    simp [encode, encodeXYN, decodeWord, decodeAlu]
  | skp x | sknp x => simp [encode, encodeXS8, decodeWord, decodeKey]
  | ldVxDt x | ldVxK x | ldDtVx x | ldStVx x | addI x | ldF x | ldB x | storeRegs x | loadRegs x =>
    simp [encode, encodeXS8, decodeWord, decodeMisc]

/-- The decoder takes the two bytes of a word and leaves the bytes after them (30_encoding.md R70). -/
theorem decodeBytes_bytesOfWord_append {w : Word} {i : Instr} (h : decodeWord w = .ok i) (rest : List Byte) :
    decodeBytes (bytesOfWord w ++ rest) = .ok (i, rest) := by
  simp [bytesOfWord, decodeBytes, h]

/-- Settles O1: the formats lose no operand (`decodeWord_encode`), and two bytes are read. -/
theorem decodeOfEncodeIsTheInstruction : Obligations.DecodeOfEncodeIsTheInstruction := by
  unfold Obligations.DecodeOfEncodeIsTheInstruction
  exact fun i rest => decodeBytes_bytesOfWord_append (decodeWord_encode i) rest

/-- Settles O6: each word is the code of its instruction, by evaluation, so `decodeWord_encode` reads it. -/
theorem writtenOutWordsDecode : Obligations.WrittenOutWordsDecode := by
  unfold Obligations.WrittenOutWordsDecode
  exact ⟨decodeWord_encode .ret, decodeWord_encode (.jp 0xABC), decodeWord_encode (.call 0x300),
    decodeWord_encode (.seImm 0x4 0x12), decodeWord_encode (.sneImm 0x5 0x13), decodeWord_encode (.seReg 0x1 0x2),
    decodeWord_encode (.ldImm 0xA 0x42), decodeWord_encode (.addImm 0xF 0x01), decodeWord_encode (.addReg 0x3 0xC),
    decodeWord_encode (.sneReg 0x1 0x2), decodeWord_encode (.ldI 0x123), decodeWord_encode (.jpV0 0x210),
    decodeWord_encode (.rnd 0x3 0x0F), decodeWord_encode (.drw 0x6 0x9 0xF), decodeWord_encode (.skp 0x8),
    decodeWord_encode (.storeRegs 0x1)⟩

/-! #### A word is its format applied to its own fields -/

theorem encodeNNN_of_fields {w : Word} {op : BitVec 4} (hop : fieldOp w = op) : encodeNNN op (fieldNNN w) = w := by
  subst hop
  exact BitVec.extractLsb'_append_extractLsb'

theorem fieldOp_append_fieldX (w : Word) : (fieldOp w ++ fieldX w : Byte) = w.extractLsb' 8 8 :=
  BitVec.extractLsb'_append_extractLsb'_eq_extractLsb' rfl

theorem fieldY_append_fieldN (w : Word) : (fieldY w ++ fieldN w : Byte) = fieldNN w :=
  BitVec.extractLsb'_append_extractLsb'_eq_extractLsb' rfl

theorem encodeXNN_of_fields {w : Word} {op : BitVec 4} (hop : fieldOp w = op) :
    encodeXNN op (fieldX w) (fieldNN w) = w := by
  subst hop
  rw [encodeXNN, fieldOp_append_fieldX]
  exact wordOfBytes_bytesOfWord w

theorem encodeXS8_of_fields {w : Word} {op : BitVec 4} {nn : Byte} (hop : fieldOp w = op) (hnn : fieldNN w = nn) :
    encodeXS8 op (fieldX w) nn = w := by
  subst hnn
  exact encodeXNN_of_fields hop

theorem encodeXYN_of_fields {w : Word} {op n : BitVec 4} (hop : fieldOp w = op) (hn : fieldN w = n) :
    encodeXYN op (fieldX w) (fieldY w) n = w := by
  subst hn
  rw [encodeXYN, fieldY_append_fieldN]
  exact encodeXNN_of_fields hop

/-! #### The inversion of the decoder -/

/-- The words R82 lists, family by family, in the fields the decoder reads (30_encoding.md R82). -/
def Refused (w : Word) : Prop :=
  (fieldOp w = 0x0 ∧ w ≠ 0x00E0 ∧ w ≠ 0x00EE) ∨
  (fieldOp w = 0x5 ∧ fieldN w ≠ 0x0) ∨
  (fieldOp w = 0x8 ∧ fieldN w ∉ [0x0, 0x1, 0x2, 0x3, 0x4, 0x5, 0x6, 0x7, 0xE]) ∨
  (fieldOp w = 0x9 ∧ fieldN w ≠ 0x0) ∨
  (fieldOp w = 0xE ∧ fieldNN w ∉ [0x9E, 0xA1]) ∨
  (fieldOp w = 0xF ∧ fieldNN w ∉ [0x07, 0x0A, 0x15, 0x18, 0x1E, 0x29, 0x33, 0x55, 0x65])

/-- What a decoder may answer for a word: the instruction whose code the word is, or, of a refused word, its name. -/
def DecodedFrom (w : Word) (answer : Except DecodeError Instr) : Prop :=
  (∃ i, encode i = w ∧ answer = .ok i) ∨ (Refused w ∧ answer = .error (.unknown w))

theorem DecodedFrom.ok {w : Word} {i : Instr} (h : encode i = w) : DecodedFrom w (.ok i) := .inl ⟨i, h, rfl⟩

theorem DecodedFrom.unknown {w : Word} (h : Refused w) : DecodedFrom w (.error (.unknown w)) := .inr ⟨h, rfl⟩

theorem decodeFixed_cases {w : Word} (hop : fieldOp w = 0x0) : DecodedFrom w (decodeFixed w) := by
  unfold decodeFixed
  split_ifs with hcls hret
  · exact .ok hcls.symm
  · exact .ok hret.symm
  · exact .unknown (.inl ⟨hop, hcls, hret⟩)

theorem decodeAlu_cases {w : Word} (hop : fieldOp w = 0x8) : DecodedFrom w (decodeAlu w) := by
  simp only [decodeAlu]
  split_ifs
  case neg => exact .unknown (by simp_all [Refused])
  all_goals exact .ok (encodeXYN_of_fields hop ‹_›)

theorem decodeKey_cases {w : Word} (hop : fieldOp w = 0xE) : DecodedFrom w (decodeKey w) := by
  simp only [decodeKey]
  split_ifs
  case neg => exact .unknown (by simp_all [Refused])
  all_goals exact .ok (encodeXS8_of_fields hop ‹_›)

theorem decodeMisc_cases {w : Word} (hop : fieldOp w = 0xF) : DecodedFrom w (decodeMisc w) := by
  simp only [decodeMisc]
  split_ifs
  case neg => exact .unknown (by simp_all [Refused])
  all_goals exact .ok (encodeXS8_of_fields hop ‹_›)

/-- The sixteen families, by the high nibble (30_encoding.md R71). -/
theorem nibble_cases : ∀ op : BitVec 4,
    op = 0x0 ∨ op = 0x1 ∨ op = 0x2 ∨ op = 0x3 ∨ op = 0x4 ∨ op = 0x5 ∨ op = 0x6 ∨ op = 0x7 ∨
    op = 0x8 ∨ op = 0x9 ∨ op = 0xA ∨ op = 0xB ∨ op = 0xC ∨ op = 0xD ∨ op = 0xE ∨ op = 0xF := by decide

/-- The decoder inverted, family by family (30_encoding.md R81). -/
theorem decodeWord_cases (w : Word) : DecodedFrom w (decodeWord w) := by
  rcases nibble_cases (fieldOp w) with
    h | h | h | h | h | h | h | h | h | h | h | h | h | h | h | h <;>
    simp only [decodeWord, h, BitVec.ofNat_eq_ofNat, BitVec.reduceEq, reduceIte]
  · exact decodeFixed_cases h
  · exact .ok (encodeNNN_of_fields h)
  · exact .ok (encodeNNN_of_fields h)
  · exact .ok (encodeXNN_of_fields h)
  · exact .ok (encodeXNN_of_fields h)
  · split
    · exact .ok (encodeXYN_of_fields h ‹_›)
    · exact .unknown (.inr (.inl ⟨h, ‹_›⟩))
  · exact .ok (encodeXNN_of_fields h)
  · exact .ok (encodeXNN_of_fields h)
  · exact decodeAlu_cases h
  · split
    · exact .ok (encodeXYN_of_fields h ‹_›)
    · exact .unknown (.inr (.inr (.inr (.inl ⟨h, ‹_›⟩))))
  · exact .ok (encodeNNN_of_fields h)
  · exact .ok (encodeNNN_of_fields h)
  · exact .ok (encodeXNN_of_fields h)
  · exact .ok (encodeXYN_of_fields h rfl)
  · exact decodeKey_cases h
  · exact decodeMisc_cases h

/-- Settles O2: a word that decodes is not refused, so it is the code of the decoder's one answer. -/
theorem encodeOfDecodeIsTheWord : Obligations.EncodeOfDecodeIsTheWord := by
  unfold Obligations.EncodeOfDecodeIsTheWord
  intro w i hi
  obtain ⟨j, hj, hok⟩ | ⟨-, herror⟩ := decodeWord_cases w
  · cases hi.symm.trans hok; exact hj
  · cases hi.symm.trans herror

/-! #### What the masks of the opcode map keep of a word (30_encoding.md R72, R80)

Each mask is a format with all-ones where the format fixes a field and zeros where it holds an operand. -/

theorem encodeNNN_and (op op' : BitVec 4) (nnn nnn' : BitVec 12) :
    encodeNNN op nnn &&& encodeNNN op' nnn' = encodeNNN (op &&& op') (nnn &&& nnn') := BitVec.and_append

theorem wordOfBytes_and (a a' b b' : Byte) :
    wordOfBytes a b &&& wordOfBytes a' b' = wordOfBytes (a &&& a') (b &&& b') := BitVec.and_append

theorem nibbles_and (a a' b b' : BitVec 4) : (a ++ b : Byte) &&& (a' ++ b' : Byte) = (a &&& a') ++ (b &&& b') :=
  BitVec.and_append

theorem and_familyMask {w : Word} {op : BitVec 4} (hop : fieldOp w = op) : w &&& 0xF000 = encodeNNN op 0#12 := by
  have hmask : (0xF000 : Word) = encodeNNN (BitVec.allOnes 4) 0#12 := rfl
  rw [← encodeNNN_of_fields hop, hmask, encodeNNN_and, BitVec.and_allOnes, BitVec.and_zero]

theorem and_nibbleMask {w : Word} {op n : BitVec 4} (hop : fieldOp w = op) (hn : fieldN w = n) :
    w &&& 0xF00F = encodeXYN op 0#4 0#4 n := by
  have hmask : (0xF00F : Word) = encodeXYN (BitVec.allOnes 4) 0#4 0#4 (BitVec.allOnes 4) := rfl
  rw [← encodeXYN_of_fields hop hn, hmask]
  simp only [encodeXYN, wordOfBytes_and, nibbles_and, BitVec.and_allOnes, BitVec.and_zero]

theorem and_lowByteMask {w : Word} {op : BitVec 4} {nn : Byte} (hop : fieldOp w = op) (hnn : fieldNN w = nn) :
    w &&& 0xF0FF = encodeXS8 op 0#4 nn := by
  have hmask : (0xF0FF : Word) = encodeXS8 (BitVec.allOnes 4) 0#4 (BitVec.allOnes 8) := rfl
  rw [← encodeXS8_of_fields hop hnn, hmask]
  simp only [encodeXS8, wordOfBytes_and, nibbles_and, BitVec.and_allOnes, BitVec.and_zero]

/-! #### The rows of the opcode map -/

theorem OpcodeRow.selects_iff {r : OpcodeRow} {w : Word} : r.selects w = true ↔ w &&& r.mask = r.pattern := beq_iff_eq

/-- A word that two rows select satisfies both patterns wherever both masks look. -/
theorem OpcodeRow.patterns_agree {r q : OpcodeRow} {w : Word} (hr : r.selects w = true) (hq : q.selects w = true) :
    r.pattern &&& q.mask = q.pattern &&& r.mask := by
  rw [← selects_iff.1 hr, ← selects_iff.1 hq, BitVec.and_assoc, BitVec.and_assoc, BitVec.and_comm r.mask]

/-- Any two rows of the opcode map differ at a bit both masks look at (30_encoding.md R80). -/
theorem opcodeTable_separated :
    ∀ r ∈ opcodeTable, ∀ q ∈ opcodeTable, r.pattern &&& q.mask = q.pattern &&& r.mask → r = q := by decide

/-- Settles O4: two selected rows agree where both masks look, and no two rows of the table do. -/
theorem noWordSelectsTwoRows : Obligations.NoWordSelectsTwoRows := by
  unfold Obligations.NoWordSelectsTwoRows
  exact fun w r q hr hq hwr hwq => opcodeTable_separated r hr q hq (OpcodeRow.patterns_agree hwr hwq)

/-! #### Each instruction's row -/

theorem Instr.row_mem_opcodeTable (i : Instr) : i.row ∈ opcodeTable := by
  cases i <;> simp [Instr.row, opcodeTable, opcodeRowsLow, opcodeRowsAlu, opcodeRowsHigh, opcodeRowsMisc]

/-- A word selects the row of the instruction it encodes: the mask drops the operands and keeps the rest of the format. -/
theorem Instr.row_selects_encode (i : Instr) : i.row.selects (encode i) = true := by
  rw [OpcodeRow.selects_iff]
  cases i with
  | cls | ret => rfl
  | jp nnn | call nnn | ldI nnn | jpV0 nnn => exact and_familyMask (fieldOp_encodeNNN _ _)
  | seImm x nn | sneImm x nn | ldImm x nn | addImm x nn | rnd x nn => exact and_familyMask (fieldOp_wordOfBytes _ _ _)
  | drw x y n => exact and_familyMask (fieldOp_wordOfBytes _ _ _)
  | seReg x y | sneReg x y | ldReg x y | orReg x y | andReg x y | xorReg x y | addReg x y | sub x y | shr x y | subn x y
  | shl x y => exact and_nibbleMask (fieldOp_wordOfBytes _ _ _) (fieldN_wordOfBytes _ _ _)
  | skp x | sknp x | ldVxDt x | ldVxK x | ldDtVx x | ldStVx x | addI x | ldF x | ldB x | storeRegs x | loadRegs x =>
    exact and_lowByteMask (fieldOp_wordOfBytes _ _ _) (fieldNN_wordOfBytes _ _)

theorem wellFormedWord_iff {w : Word} : wellFormedWord w = true ↔ ∃ r ∈ opcodeTable, r.selects w = true := List.any_eq_true

/-- A word that encodes an instruction is well-formed, by that instruction's own row. -/
theorem wellFormedWord_encode (i : Instr) : wellFormedWord (encode i) = true :=
  wellFormedWord_iff.2 ⟨i.row, i.row_mem_opcodeTable, i.row_selects_encode⟩

/-! #### No row selects a refused word -/

/-- Where a row's mask keeps all of a field, a selected word has the pattern's field. -/
theorem OpcodeRow.field_of_selects {r : OpcodeRow} {w : Word} {start len : Nat} (h : r.selects w = true)
    (hmask : r.mask.extractLsb' start len = BitVec.allOnes len) :
    w.extractLsb' start len = r.pattern.extractLsb' start len := by
  rw [← selects_iff.1 h, BitVec.extractLsb'_and, hmask, BitVec.and_allOnes]

/-- Every mask keeps the high nibble, and the field its family dispatches on (30_encoding.md R71). -/
theorem opcodeTable_masks : ∀ r ∈ opcodeTable, fieldOp r.mask = BitVec.allOnes 4 ∧
    (fieldOp r.pattern = 0x0 → r.mask = BitVec.allOnes 16) ∧
    (fieldOp r.pattern ∈ [0x5, 0x8, 0x9] → fieldN r.mask = BitVec.allOnes 4) ∧
    (fieldOp r.pattern ∈ [0xE, 0xF] → fieldNN r.mask = BitVec.allOnes 8) := by decide

theorem opcodeTable_patterns_not_refused : ∀ r ∈ opcodeTable, ¬ Refused r.pattern := by
  unfold Refused
  decide

/-- A refused word is told by fields that every row's mask keeps, so a row it selected would have a refused pattern. -/
theorem not_refused_of_selects {r : OpcodeRow} {w : Word} (hr : r ∈ opcodeTable) (h : r.selects w = true) :
    ¬ Refused w := by
  refine fun hw => opcodeTable_patterns_not_refused r hr ?_
  obtain ⟨hop, hfixed, hnibble, hbyte⟩ := opcodeTable_masks r hr
  have hfamily : fieldOp w = fieldOp r.pattern := OpcodeRow.field_of_selects h hop
  have hN (hf : fieldOp w ∈ [0x5, 0x8, 0x9]) : fieldN w = fieldN r.pattern :=
    OpcodeRow.field_of_selects h (hnibble (hfamily ▸ hf))
  have hNN (hf : fieldOp w ∈ [0xE, 0xF]) : fieldNN w = fieldNN r.pattern :=
    OpcodeRow.field_of_selects h (hbyte (hfamily ▸ hf))
  refine hw.imp ?fixed (Or.imp ?five (Or.imp ?alu (Or.imp ?nine (Or.imp ?key ?misc))))
  case fixed =>
    rintro ⟨hf, hne⟩
    have hw : r.pattern = w := by rw [← OpcodeRow.selects_iff.1 h, hfixed (hfamily ▸ hf), BitVec.and_allOnes]
    exact hw ▸ ⟨hf, hne⟩
  case five | alu | nine => exact fun ⟨hf, hn⟩ => ⟨hfamily ▸ hf, hN (by simp [hf]) ▸ hn⟩
  case key | misc => exact fun ⟨hf, hnn⟩ => ⟨hfamily ▸ hf, hNN (by simp [hf]) ▸ hnn⟩

/-- Settles O3: the inversion, an instruction's word by its row and a refused word by no row. -/
theorem decodesExactlyTheTableWords : Obligations.DecodesExactlyTheTableWords := by
  unfold Obligations.DecodesExactlyTheTableWords
  intro w
  obtain ⟨i, rfl, hok⟩ | ⟨hrefused, herror⟩ := decodeWord_cases w
  · refine ⟨fun _ => ⟨i, hok, i.row_selects_encode, i.row_mem_opcodeTable⟩, fun hill => ?_⟩
    cases (wellFormedWord_encode i).symm.trans hill
  · refine ⟨fun hwf => ?_, fun _ => herror⟩
    obtain ⟨r, hr, hsel⟩ := wellFormedWord_iff.1 hwf
    exact absurd hrefused (not_refused_of_selects hr hsel)

/-! #### The refused words are R82's -/

/-- The decoder answers Unknown exactly for the refused words: an instruction's word selects its row, which a refused one cannot. -/
theorem decodeWord_unknown_iff {w : Word} : decodeWord w = .error (.unknown w) ↔ Refused w := by
  obtain ⟨i, rfl, hok⟩ | ⟨hrefused, herror⟩ := decodeWord_cases w
  · simp [hok, not_refused_of_selects i.row_mem_opcodeTable i.row_selects_encode]
  · simp [herror, hrefused]

theorem fieldOp_eq_iff {w : Word} {op : BitVec 4} : fieldOp w = op ↔ w.toNat / 0x1000 = op.toNat := by
  have := w.isLt
  rw [← BitVec.toNat_inj, fieldOp, BitVec.extractLsb'_toNat, Nat.shiftRight_eq_div_pow]
  omega

theorem fieldN_eq_iff {w : Word} {n : BitVec 4} : fieldN w = n ↔ w.toNat % 0x10 = n.toNat := by
  rw [← BitVec.toNat_inj]; rfl

theorem fieldNN_eq_iff {w : Word} {nn : Byte} : fieldNN w = nn ↔ w.toNat % 0x100 = nn.toNat := by
  rw [← BitVec.toNat_inj]; rfl

theorem fieldN_not_alu_iff {w : Word} : fieldN w ∉ [0x0, 0x1, 0x2, 0x3, 0x4, 0x5, 0x6, 0x7, 0xE] ↔
    w.toNat % 0x10 ∈ [0x8, 0x9, 0xA, 0xB, 0xC, 0xD, 0xF] := by
  simp [fieldN_eq_iff]
  omega

/-- Settles O5: the refused words, their fields read as numbers. -/
theorem illegalWordsAreTheListedOnes : Obligations.IllegalWordsAreTheListedOnes := by
  unfold Obligations.IllegalWordsAreTheListedOnes
  intro w
  rw [decodeWord_unknown_iff, Refused, fieldN_not_alu_iff]
  simp [fieldOp_eq_iff, fieldN_eq_iff, fieldNN_eq_iff]

end Sys2Proof

/-! ### The engine: one Step, its faults, and the inputs no instruction reads (40_engine.md R90 to R102)

`step_cases` says what a Step does: it keeps the state, takes a fault, or runs the instruction at PC. The statements about a Step
carry a fact about instructions along it: `exec_answers`, `exec_cases` and `exec_setUnread`. -/

namespace Sys2Proof.Machine

/-! #### A Step is the instruction at PC or a fault -/

/-- Settles O8: in range the fetch reads the two bytes at PC, and `step_decoded` is the Step of the word they make. -/
theorem stepRunsTheDecodedInstruction : Obligations.StepRunsTheDecodedInstruction := by
  unfold Obligations.StepRunsTheDecodedInstruction
  intro s i ⟨hf, hpc⟩ hd
  exact step_decoded hf (State.fetch_of_le hpc) (decodeBytes_pair.1 hd)

/-- Settles O9: a PC out of range leaves nothing to fetch, and the decoder refuses a word that selects no row (O3). -/
theorem fetchAndDecodeFaultsAreTaken : Obligations.FetchAndDecodeFaultsAreTaken := by
  unfold Obligations.FetchAndDecodeFaultsAreTaken
  refine fun s hf => ⟨fun hpc => ?fetch, fun hpc hw => ?decode⟩
  case fetch => exact step_fetch_fault hf (State.fetch_of_gt hpc)
  case decode => exact step_unknown hf (State.fetch_of_le hpc) ((decodesExactlyTheTableWords _).2 hw)

/-- Both sides of every check, and every meaning without one, end in a next state (40_engine.md R99). -/
theorem exec_answers (i : Instr) (s : State) : ∃ t, exec i s = .next t := by
  cases i with
  | call | ret | drw | ldB | storeRegs | loadRegs | ldVxK =>
    simp only [exec, execCall, execRet, execDrw, execLdB, execStoreRegs, execLoadRegs, execLdVxK]
    split <;> exact ⟨_, rfl⟩
  | _ => exact ⟨_, rfl⟩

/-- Settles O11: a Step that runs no instruction names its next state, and an instruction answers one. -/
theorem everyStepAnswersANextState : Obligations.EveryStepAnswersANextState := by
  unfold Obligations.EveryStepAnswersANextState
  intro s
  obtain ⟨-, hstep⟩ | ⟨-, -, hstep⟩ | ⟨-, -, _, _, -, -, hstep⟩ | ⟨-, -, _, i, -, -, hstep⟩ := step_cases s
  · exact ⟨_, hstep⟩
  · exact ⟨_, hstep⟩
  · exact ⟨_, hstep⟩
  · exact hstep ▸ exec_answers i s

/-- Settles O13: a Step that runs no instruction writes the fault register at most; an instruction faults and writes it alone,
or completes and leaves it clear. -/
theorem faultingStepChangesOnlyTheFaultRegister : Obligations.FaultingStepChangesOnlyTheFaultRegister := by
  unfold Obligations.FaultingStepChangesOnlyTheFaultRegister
  intro s t hs h ht
  obtain ⟨_, rfl⟩ | ⟨-, _, -, hexec⟩ := step_runs_or_keeps h
  · rfl
  · obtain ⟨_, -, rfl⟩ | hframe := exec_cases hexec
    · rfl
    · exact absurd (hframe.fault.trans hs) ht

/-! #### The random byte and the sound timer

Each of the two fields concerns one instruction: RND reads (and then replaces) the random byte, LD ST, VX overwrites the sound
timer. Every other instruction carries a change of the field through unread, and so does a Step. -/

/-- The two fields that concern one instruction each (40_engine.md R90, 10_state.md R30). -/
inductive UnreadField where
  | rnd
  | st

/-- The instruction is the one the field concerns: RND for the random byte, LD ST, VX for the sound timer. -/
def UnreadField.Concerns : UnreadField → Instr → Prop
  | .rnd, i => ∃ x nn, i = .rnd x nn
  | .st, i => ∃ x, i = .ldStVx x

/-- The state with another byte in the field. The match stands inside the two fields, so every other field is that of `s` by
unfolding, whichever of the two is replaced. -/
def State.setUnread (f : UnreadField) (b : Byte) (s : State) : State :=
  { s with
    rnd := match f with | .rnd => b | .st => s.rnd
    st := match f with | .rnd => s.st | .st => b }

theorem setFlagIf_setUnread (f : UnreadField) (b : Byte) (s : State) (quirk flag : Bool) :
    (s.setUnread f b).setFlagIf quirk flag = (s.setFlagIf quirk flag).setUnread f b := by
  cases quirk <;> rfl

theorem writeLogicResult_setUnread (f : UnreadField) (b : Byte) (x : RegIndex) (result : Byte) (s : State) :
    writeLogicResult x result (s.setUnread f b) = (writeLogicResult x result s).setUnread f b :=
  congrArg State.advance (setFlagIf_setUnread f b (s.setReg x result) s.quirks.logicOpsResetVf false)

/-- An instruction that the field does not concern does the same under any byte in it, and leaves that byte there. The checks
read other fields, so each takes the same side (40_engine.md R90, 10_state.md R30). -/
theorem exec_setUnread {f : UnreadField} {b : Byte} {i : Instr} {s t : State} (hi : ¬ f.Concerns i)
    (h : exec i s = .next t) : exec i (s.setUnread f b) = .next (t.setUnread f b) := by
  cases i with
  | call nnn =>
    obtain ⟨hfull, rfl⟩ | ⟨hfree, rfl⟩ := execCall_cases h
    · exact execCall_full nnn hfull
    · exact execCall_free (s := s.setUnread f b) nnn hfree
  | ret =>
    obtain ⟨hempty, rfl⟩ | ⟨hused, rfl⟩ := execRet_cases h
    · exact execRet_empty hempty
    · exact execRet_used (s := s.setUnread f b) hused
  | drw x y n =>
    obtain ⟨hout, rfl⟩ | ⟨hin, rfl⟩ := execDrw_cases h
    · unfold SpriteInMemory at hout
      have hrows : 0 < n.toNat := by omega
      have hfar : 0xFFF < s.i.toNat + n.toNat - 1 := by omega
      exact execDrw_outside x y n hrows hfar
    · exact execDrw_inside x y n hin
  | ldB x =>
    obtain ⟨hout, rfl⟩ | ⟨hin, rfl⟩ := execLdB_cases h
    · exact execLdB_outside x hout
    · exact execLdB_inside x hin
  | storeRegs x =>
    obtain ⟨hout, rfl⟩ | ⟨hin, rfl⟩ := execStoreRegs_cases h
    · exact execStoreRegs_outside x hout
    · exact execStoreRegs_inside x hin
  | loadRegs x =>
    obtain ⟨hout, rfl⟩ | ⟨hin, rfl⟩ := execLoadRegs_cases h
    · exact execLoadRegs_outside x hout
    · exact execLoadRegs_inside x hin
  | ldVxK x =>
    cases hk : s.lowestKey with
    | none => rw [exec, execLdVxK_waits x hk] at h; cases h; exact execLdVxK_waits x hk
    | some k => rw [exec, execLdVxK_pressed x hk] at h; cases h; exact execLdVxK_pressed x hk
  | rnd x nn =>
    cases f with
    | rnd => exact absurd ⟨x, nn, rfl⟩ hi
    | st => cases h; rfl
  | ldStVx x =>
    cases f with
    | rnd => cases h; rfl
    | st => exact absurd ⟨x, rfl⟩ hi
  | orReg x y | andReg x y | xorReg x y =>
    cases h; exact congrArg Host.Outcome.next (writeLogicResult_setUnread f b x _ s)
  | addI x =>
    cases h
    exact congrArg (fun u => Host.Outcome.next (State.advance u))
      (setFlagIf_setUnread f b (s.setI (s.i + zextByte (s.reg x))) _ _)
  | _ => cases h; rfl

/-- A Step that does not run the instruction the field concerns does the same under any byte in it: the halted check, the fetch
and the decoder read other fields (40_engine.md R90). -/
theorem step_setUnread {f : UnreadField} {b : Byte} {s t : State}
    (hi : ∀ i, decodeBytes [s.memory.read s.pc.toNat, s.memory.read (s.pc.toNat + 1)] = .ok (i, []) → ¬ f.Concerns i)
    (h : step s = .next t) : step (s.setUnread f b) = .next (t.setUnread f b) := by
  obtain ⟨hf, hstep⟩ | ⟨hf, hpc, hstep⟩ | ⟨hf, -, w, e, hw, hd, hstep⟩ | ⟨hf, hpc, w, i, hw, hd, hstep⟩ := step_cases s <;>
    rw [hstep] at h
  · cases h; exact step_halted hf
  · cases h; exact step_fetch_fault hf (State.fetch_of_gt hpc)
  · cases h; exact step_unknown hf hw hd
  · have hword : decodeBytes [s.memory.read s.pc.toNat, s.memory.read (s.pc.toNat + 1)] = .ok (i, []) := by
      rw [State.fetch_of_le hpc] at hw; cases hw; exact decodeBytes_pair.2 hd
    have hrun : step (s.setUnread f b) = exec i (s.setUnread f b) := step_decoded hf hw hd
    exact hrun.trans (exec_setUnread (hi i hword) h)

/-- Settles O20: `exec_setUnread` for the two fields; LD ST, VX itself overwrites whatever byte the timer held. -/
theorem randomByteAndSoundTimerAreNotReadByOthers : Obligations.RandomByteAndSoundTimerAreNotReadByOthers := by
  unfold Obligations.RandomByteAndSoundTimerAreNotReadByOthers
  refine fun i s t b h => ⟨fun hi => ?rnd, fun hi => ?st, ?overwritten⟩
  case rnd => exact exec_setUnread (f := .rnd) (fun ⟨x, nn, hx⟩ => hi x nn hx) h
  case st => exact exec_setUnread (f := .st) (fun ⟨x, hx⟩ => hi x hx) h
  case overwritten => rintro ⟨x, rfl⟩; cases h; rfl

/-- Settles O59: the trace is no argument of the Step, and `step_setUnread` replaces the byte on the input. -/
theorem traceAndUnusedRandomByteChangeNothing : Obligations.TraceAndUnusedRandomByteChangeNothing := by
  unfold Obligations.TraceAndUnusedRandomByteChangeNothing
  refine fun _ _ b c s t h => ⟨h, fun hword => ?_⟩
  refine step_setUnread (f := .rnd) (s := { s with rnd := b }) ?_ h
  rintro _ hd ⟨x, nn, rfl⟩
  exact hword x nn hd

/-! #### The input latch and the draw flag -/

theorem setKeyState_keyPressed (k j : KeyCode) (b : Bool) (s : State) :
    (setKeyState k b s).keyPressed j = if j = k then b else s.keyPressed j := by
  by_cases h : j = k
  · subst h; simp [State.keyPressed, setKeyState]
  · have hne : k.toNat ≠ j.toNat := fun e => h (BitVec.eq_of_toNat_eq e.symm)
    simp [State.keyPressed, setKeyState, h, hne]

/-- Settles O57: one entry of the latch is written, and the frames are the definitions. -/
theorem latchAndAcknowledgeWriteOneThing : Obligations.LatchAndAcknowledgeWriteOneThing := by
  unfold Obligations.LatchAndAcknowledgeWriteOneThing
  exact fun k b s => ⟨fun j => setKeyState_keyPressed k j b s, rfl, rfl⟩

end Sys2Proof.Machine

/-! ### Control transfer: jumps, CALL and RET, skips (41_control.md R111 to R118)

Three shapes cover the family: an update of PC alone (`State.setPc_onlyPc`), an update of the return stack and PC
(`State.setStack_setPc_onlyStackAndPc`), and a skip (`State.skipIf_skipsWhen`). Which of them a meaning is, its definition or its
equations in Laws/Exec.lean say; the round trip of CALL and RET follows from what the two do apart. -/

namespace Sys2Proof.Machine

/-! #### Jumps write PC alone -/

theorem State.setPc_onlyPc (s : State) (a : Word) : OnlyPc s (s.setPc a) :=
  ⟨fun _ => rfl, fun _ => rfl, rfl, ⟨⟨rfl, fun _ => rfl⟩, ⟨rfl, rfl⟩, ⟨rfl, fun _ _ => rfl⟩, rfl, rfl, rfl, rfl⟩, rfl, rfl⟩

/-- Settles O24: JP is `setPc` at NNN; a jump to PC writes the PC that stands there, and 0xFFF is past the last fetch. -/
theorem jumpSetsPc : Obligations.JumpSetsPc := by
  unfold Obligations.JumpSetsPc
  refine fun nnn s => ⟨s.setPc (zextAddr nnn), rfl, zextAddr_toNat nnn, State.setPc_onlyPc s _, fun hself => ?toItself,
    fun hlast hf => ?toLastAddress⟩
  case toItself =>
    have hpc : zextAddr nnn = s.pc := BitVec.eq_of_toNat_eq ((zextAddr_toNat nnn).trans hself.symm)
    rw [hpc]; rfl
  case toLastAddress =>
    have hgt : 0xFFE < (zextAddr nnn).toNat := by rw [hlast]; decide
    exact step_fetch_fault (s := s.setPc (zextAddr nnn)) hf (State.fetch_of_gt hgt)

/-- Settles O29: BNNN is `setPc` at the target of `execJpV0_pc`, read under either value of the quirk. -/
theorem jumpWithOffsetAddsTheRegister : Obligations.JumpWithOffsetAddsTheRegister := by
  unfold Obligations.JumpWithOffsetAddsTheRegister
  intro nnn s
  have hpc := execJpV0_pc (nnn := nnn) (s := s) rfl
  refine ⟨_, rfl, State.setPc_onlyPc s _, fun hv0 => ?v0, fun hvx => ?vx⟩
  case v0 => simpa [hv0] using hpc
  case vx => simpa [hvx] using hpc

/-! #### CALL and RET write the return stack and PC -/

/-- Only the return stack, SP and PC may differ (41_control.md R112, R113). -/
def OnlyStackAndPc (s t : State) : Prop :=
  SameRegs s t ∧ SameMemory s t ∧ t.i = s.i ∧ SameTimers s t ∧ SameDisplay s t ∧ SameHostState s t ∧ SameDraw s t

theorem State.setStack_setPc_onlyStackAndPc (s : State) (stack : Vector Word 16) (sp : Fin 17) (a : Word) :
    OnlyStackAndPc s (State.setPc { s with stack := stack, sp := sp } a) :=
  ⟨fun _ => rfl, fun _ => rfl, rfl, ⟨rfl, rfl⟩, ⟨rfl, fun _ _ => rfl⟩, ⟨rfl, rfl, rfl, rfl⟩, rfl, rfl⟩

/-- Settles O25: on the free side of its check CALL writes one entry, SP and PC. -/
theorem callPushesTheNextAddress : Obligations.CallPushesTheNextAddress := by
  unfold Obligations.CallPushesTheNextAddress
  refine fun nnn s hfree => ⟨_, execCall_free nnn hfree, zextAddr_toNat nnn, rfl, fun j => ?entries,
    State.setStack_setPc_onlyStackAndPc s _ _ _⟩
  case entries => simp [Vector.getElem_set, eq_comm]

/-- Settles O26: on the used side of its check RET writes SP and PC; the entry below SP is the only j with j + 1 = SP. -/
theorem returnPopsTheAddress : Obligations.ReturnPopsTheAddress := by
  unfold Obligations.ReturnPopsTheAddress
  refine fun s hused => ⟨_, execRet_used hused, Nat.sub_add_cancel hused, fun j hj => ?target, fun _ => rfl,
    State.setStack_setPc_onlyStackAndPc s s.stack _ _⟩
  case target => simp [← hj]

/-- Settles O27: the fault side of each check, where `raiseFault` records the kind and nothing else. -/
theorem callAndReturnFaultAtTheEnds : Obligations.CallAndReturnFaultAtTheEnds := by
  unfold Obligations.CallAndReturnFaultAtTheEnds
  exact fun _ => ⟨fun hfull nnn => execCall_full nnn hfull, execRet_empty⟩

/-- Settles O28: RET pops the entry CALL pushed, because SP after the call is one above it (O25, O26). -/
theorem callThenReturnResumesAfterTheCall : Obligations.CallThenReturnResumesAfterTheCall := by
  unfold Obligations.CallThenReturnResumesAfterTheCall
  intro nnn s hfree
  obtain ⟨t, hcall, -, hpush, hentries, hregs, -⟩ := callPushesTheNextAddress nnn s hfree
  have hused : 0 < t.sp.val := by omega
  obtain ⟨u, hret, hpop, htarget, -, hregs', -⟩ := returnPopsTheAddress t hused
  refine ⟨t, u, hcall, hret, ?pc, Fin.ext (by omega), fun k => (hregs' k).trans (hregs k)⟩
  case pc =>
    calc u.pc = t.stack[(⟨s.sp.val, hfree⟩ : Fin 16)] := htarget ⟨s.sp.val, hfree⟩ hpush.symm
      _ = s.pc + 2 := (hentries ⟨s.sp.val, hfree⟩).trans (if_pos rfl)

/-! #### Skips -/

/-- A skip whose Boolean test decides the condition skips when it holds (40_engine.md R96). -/
theorem State.skipIf_skipsWhen {s : State} {c : Bool} {p : Prop} (hc : c = true ↔ p) : SkipsWhen p s (s.skipIf c) :=
  ⟨fun hp => if_pos (hc.2 hp), fun hp => if_neg fun h => hp (hc.1 h), State.setPc_onlyPc s _⟩

/-- Settles O30: both meanings are `skipIf`, on the Boolean equality of VX with NN and on its negation. -/
theorem immediateSkipsCompareWithNn : Obligations.ImmediateSkipsCompareWithNn := by
  unfold Obligations.ImmediateSkipsCompareWithNn
  exact fun _ _ _ => ⟨⟨_, rfl, State.skipIf_skipsWhen beq_iff_eq⟩, _, rfl, State.skipIf_skipsWhen bne_iff_ne⟩

/-- Settles O31: both meanings are `skipIf`, on the Boolean equality of VX with VY and on its negation. -/
theorem registerSkipsCompareRegisters : Obligations.RegisterSkipsCompareRegisters := by
  unfold Obligations.RegisterSkipsCompareRegisters
  exact fun _ _ _ => ⟨⟨_, rfl, State.skipIf_skipsWhen beq_iff_eq⟩, _, rfl, State.skipIf_skipsWhen bne_iff_ne⟩

end Sys2Proof.Machine

/-! ### Register loads and the ALU group (42_alu.md R130 to R141)

Every meaning of the family writes general registers and PC (`State.sameStackTimersDisplay_of_regs`), in one of three shapes: a
result alone, a result and then a flag, or RND's result with the next byte of its input. The shapes say what each register holds;
what is left for an instruction is its arithmetic, the model's bit vectors against the rules' sums, differences and quotients. -/

namespace Sys2Proof.Machine

/-! #### The shapes -/

/-- A change of the general registers, PC and the random input is none of anything else. -/
theorem State.sameStackTimersDisplay_of_regs (s : State) (v : Vector Byte 16) (pc : Word) (rnd : Byte) (draws : Nat) :
    SameStackTimersDisplay s { s with v := v, pc := pc, rnd := rnd, draws := draws } :=
  ⟨⟨rfl, fun _ => rfl⟩, ⟨rfl, rfl⟩, ⟨rfl, fun _ _ => rfl⟩, rfl, rfl, rfl, rfl⟩

theorem State.setRegs_setPc_onlyRegsAndPc (s : State) (v : Vector Byte 16) (pc : Word) :
    OnlyRegsAndPc s { s with v := v, pc := pc } :=
  ⟨fun _ => rfl, rfl, s.sameStackTimersDisplay_of_regs v pc s.rnd s.draws, rfl, rfl⟩

theorem State.setReg_advance_writesReg (s : State) (x : RegIndex) (b : Byte) : WritesReg x b s (s.setReg x b).advance :=
  ⟨fun k => s.reg_setReg x k b, rfl, s.setRegs_setPc_onlyRegsAndPc _ _⟩

/-- The flag goes over the result, so with X = F it is what VF holds (40_engine.md R97). -/
theorem writeResultAndFlag_writesRegThenFlag (x : RegIndex) (b : Byte) (f : Bool) (s : State) :
    WritesRegThenFlag x b (flagByte f) s (writeResultAndFlag x b f s) :=
  ⟨fun k => by simp [writeResultAndFlag], rfl, s.setRegs_setPc_onlyRegsAndPc _ _⟩

theorem writeLogicResult_of_quirk {s : State} (x : RegIndex) (b : Byte) (h : s.quirks.logicOpsResetVf = true) :
    writeLogicResult x b s = writeResultAndFlag x b false s := by
  simp only [writeLogicResult, h, State.setFlagIf, if_true, writeResultAndFlag]

theorem writeLogicResult_of_not_quirk {s : State} (x : RegIndex) (b : Byte) (h : s.quirks.logicOpsResetVf = false) :
    writeLogicResult x b s = (s.setReg x b).advance := by
  simp [writeLogicResult, h, State.setFlagIf]

/-! #### Flags and results as numbers -/

theorem flagByte_decide (p : Prop) [Decidable p] : flagByte (decide p) = if p then 1 else 0 := by
  simp [flagByte]

theorem flagByte_carryFlag (a b : Byte) : flagByte (carryFlag a b) = if 255 < a.toNat + b.toNat then 1 else 0 :=
  flagByte_decide _

theorem flagByte_noBorrowFlag (a b : Byte) : flagByte (noBorrowFlag a b) = if b.toNat ≤ a.toNat then 1 else 0 :=
  flagByte_decide _

/-- A bit of a byte, as VF holds it, is the quotient by the bit's weight, mod 2. -/
theorem flagByte_getLsbD (a : Byte) (i : Nat) : flagByte (a.getLsbD i) = BitVec.ofNat 8 (a.toNat / 2 ^ i % 2) := by
  rw [BitVec.getLsbD, Nat.testBit_eq_decide_div_mod_eq, flagByte_decide]
  obtain h | h := Nat.mod_two_eq_zero_or_one (a.toNat / 2 ^ i) <;> rw [h] <;> rfl

theorem flagByte_shiftedOutLow (a : Byte) : flagByte (shiftedOutLow a) = BitVec.ofNat 8 (a.toNat % 2) := by
  rw [shiftedOutLow, flagByte_getLsbD, Nat.pow_zero, Nat.div_one]

theorem flagByte_shiftedOutHigh (a : Byte) : flagByte (shiftedOutHigh a) = BitVec.ofNat 8 (a.toNat / 128) := by
  have htop : a.toNat / 2 ^ 7 % 2 = a.toNat / 128 := by have := a.isLt; omega
  rw [shiftedOutHigh, flagByte_getLsbD, htop]

/-- The difference mod 2^8, with 256 added so that it does not fall below 0. -/
theorem byte_sub_eq_ofNat (a b : Byte) : a - b = BitVec.ofNat 8 (256 + a.toNat - b.toNat) := by
  have hb := b.isLt
  rw [BitVec.sub_def]
  congr 1
  omega

theorem byte_shiftRight_one (a : Byte) : a >>> 1 = BitVec.ofNat 8 (a.toNat / 2) := by
  have ha := a.isLt
  apply BitVec.eq_of_toNat_eq
  rw [BitVec.toNat_ushiftRight, BitVec.toNat_ofNat, Nat.shiftRight_one]
  omega

theorem byte_shiftLeft_one (a : Byte) : a <<< 1 = BitVec.ofNat 8 (a.toNat * 2) := by
  apply BitVec.eq_of_toNat_eq
  rw [BitVec.toNat_shiftLeft, BitVec.toNat_ofNat, Nat.shiftLeft_eq, Nat.pow_one]

/-! #### Results without a flag -/

/-- Settles O33: both meanings are one write of VX, of NN and of the old VY. -/
theorem loadsOfImmediateAndRegister : Obligations.LoadsOfImmediateAndRegister := by
  unfold Obligations.LoadsOfImmediateAndRegister
  exact fun x _ _ s => ⟨⟨_, rfl, s.setReg_advance_writesReg x _⟩, _, rfl, s.setReg_advance_writesReg x _⟩

/-- Settles O34: one write of VX, and the sum of two bytes is the sum of their numbers mod 2^8. -/
theorem addImmediateWrapsAndSetsNoFlag : Obligations.AddImmediateWrapsAndSetsNoFlag := by
  unfold Obligations.AddImmediateWrapsAndSetsNoFlag
  intro x nn s
  rw [← BitVec.add_def]
  exact ⟨_, rfl, s.setReg_advance_writesReg x _⟩

/-! #### Results with VF written last -/

/-- Settles O35: the three meanings are `writeLogicResult` of their result; with the quirk it writes a flag that is 0, and
without it no flag. -/
theorem logicOperationsClearVfUnderTheQuirk : Obligations.LogicOperationsClearVfUnderTheQuirk := by
  unfold Obligations.LogicOperationsClearVfUnderTheQuirk
  intro x y s op r hop
  have hexec : exec op s = .next (writeLogicResult x r s) := by
    obtain ⟨rfl, rfl⟩ | ⟨rfl, rfl⟩ | ⟨rfl, rfl⟩ := hop <;> rfl
  refine ⟨_, hexec, fun hq => ?clears, fun hq => ?keeps⟩
  case clears => rw [writeLogicResult_of_quirk x r hq]; exact writeResultAndFlag_writesRegThenFlag x r false s
  case keeps => rw [writeLogicResult_of_not_quirk x r hq]; exact s.setReg_advance_writesReg x r

/-- Settles O36: result, then the carry of the old values. -/
theorem addSetsCarryLast : Obligations.AddSetsCarryLast := by
  unfold Obligations.AddSetsCarryLast
  intro x y s
  rw [← BitVec.add_def, ← flagByte_carryFlag]
  exact ⟨_, rfl, writeResultAndFlag_writesRegThenFlag x _ _ s⟩

/-- Settles O37: difference, then the no-borrow flag of the old values; SUBN takes the operands the other way round. -/
theorem subtractionsSetNoBorrowLast : Obligations.SubtractionsSetNoBorrowLast := by
  unfold Obligations.SubtractionsSetNoBorrowLast
  intro x y s
  simp only [← byte_sub_eq_ofNat, ← flagByte_noBorrowFlag]
  exact ⟨⟨_, rfl, writeResultAndFlag_writesRegThenFlag x _ _ s⟩, _, rfl, writeResultAndFlag_writesRegThenFlag x _ _ s⟩

/-- Settles O38: shifted source, then the bit shifted out; `shiftSource` is the source the quirk selects. -/
theorem shiftsSetTheBitShiftedOut : Obligations.ShiftsSetTheBitShiftedOut := by
  unfold Obligations.ShiftsSetTheBitShiftedOut
  intro x y s src hsrc
  obtain rfl : src = shiftSource s x y := hsrc
  rw [← byte_shiftRight_one, ← flagByte_shiftedOutLow, ← byte_shiftLeft_one, ← flagByte_shiftedOutHigh]
  exact ⟨⟨_, rfl, writeResultAndFlag_writesRegThenFlag x _ _ s⟩, _, rfl, writeResultAndFlag_writesRegThenFlag x _ _ s⟩

/-! #### The random byte -/

/-- `WritesReg` but for the random input, which RND moves on to its next byte (42_alu.md R141). -/
def WritesRegAndDraws (x : RegIndex) (b : Byte) (s t : State) : Prop :=
  (∀ k : RegIndex, t.reg k = if k = x then b else s.reg k) ∧
    t.pc = s.pc + 2 ∧ SameMemory s t ∧ t.i = s.i ∧ SameStackTimersDisplay s t

theorem State.setReg_nextDraw_advance_writesRegAndDraws (s : State) (x : RegIndex) (b : Byte) :
    WritesRegAndDraws x b s (s.setReg x b).nextDraw.advance :=
  ⟨fun k => s.reg_setReg x k b, rfl, fun _ => rfl, rfl, s.sameStackTimersDisplay_of_regs _ _ _ _⟩

/-- Settles O39: the Step runs RND with `b` on its input (O8). The next draw replaces that byte, so the state after it is the one
RND's shape gives from `s`. -/
theorem randomIsTheInputMasked : Obligations.RandomIsTheInputMasked := by
  unfold Obligations.RandomIsTheInputMasked
  refine fun x nn s => ⟨⟨_, rfl, s.setReg_nextDraw_advance_writesRegAndDraws x _⟩, fun trace b hrun hword => ?step⟩
  case step =>
    have hexec : stepOp trace b s = .next (s.setReg x (b &&& nn)).nextDraw.advance :=
      stepRunsTheDecodedInstruction { s with rnd := b } (.rnd x nn) hrun hword
    exact ⟨_, hexec, s.setReg_nextDraw_advance_writesRegAndDraws x _⟩

end Sys2Proof.Machine

/-! ### The address register and memory transfers (43_index_memory.md R150 to R155)

Every meaning of the family writes memory, general registers, I and PC alone (`State.sameStackTimersDisplay_of_font`). The
lemmas after that frame say what the operands are as numbers, the glyph address, the sum with I and I after a block move, and what
a block move leaves where. -/

namespace Sys2Proof.Machine

/-! #### The frame -/

/-- A change of memory that keeps FONT, of the general registers, I and PC is none of anything else. -/
theorem State.sameStackTimersDisplay_of_font (s : State) {m : Memory} (h : m.font = s.memory.font) (v : Vector Byte 16)
    (i pc : Word) : SameStackTimersDisplay s { s with memory := m, v := v, i := i, pc := pc } :=
  ⟨⟨rfl, fun _ => rfl⟩, ⟨rfl, rfl⟩, ⟨rfl, fun _ _ => rfl⟩, rfl, rfl, rfl, h⟩

/-- A flag written or not is a change of the general registers alone. -/
theorem State.setFlagIf_sameStackTimersDisplay {s t : State} (h : SameStackTimersDisplay s t) (quirk flag : Bool) :
    SameStackTimersDisplay s (t.setFlagIf quirk flag) := by
  cases quirk <;> exact h

/-! #### Values of I -/

theorem glyphAddress_toNat (a : Byte) : (glyphAddress a).toNat = a.toNat % 16 * 5 := by
  have hwiden : ((lowNibble a).setWidth 16).toNat = a.toNat % 16 := by
    rw [lowNibble_eq_ofNat, BitVec.toNat_setWidth, BitVec.toNat_ofNat]; omega
  simp only [glyphAddress, BitVec.toNat_mul, hwiden, BitVec.reduceToNat]
  omega

theorem add_zextByte_eq_ofNat (a : Word) (b : Byte) : a + zextByte b = BitVec.ofNat 16 (a.toNat + b.toNat) := by
  have hb := b.isLt
  have hwiden : (zextByte b).toNat = b.toNat := by rw [zextByte, BitVec.toNat_setWidth]; omega
  rw [BitVec.add_def, hwiden]

theorem flagByte_indexOverflow (a : Word) (b : Byte) :
    flagByte (indexOverflow a b) = if 0xFFF < a.toNat + b.toNat then 1 else 0 :=
  flagByte_decide _

/-- The advance by X + 1 wraps the exact sum once (43_index_memory.md R154, R155). -/
theorem indexAfterMove_eq (s : State) (x : RegIndex) :
    indexAfterMove s x =
      if s.quirks.loadStoreIncrementsI then BitVec.ofNat 16 (s.i.toNat + x.toNat + 1) else s.i := by
  have hadd : s.i + x.setWidth 16 + 1 = BitVec.ofNat 16 (s.i.toNat + x.toNat + 1) := by bv_omega
  rw [indexAfterMove, hadd]

/-! #### The blocks -/

theorem State.regBytes_moveCount_length (s : State) (x : RegIndex) :
    (s.regBytes (moveCount x)).length = x.toNat + 1 := by
  have hx := x.isLt
  rw [State.regBytes_length, moveCount]
  omega

/-- With V0..VX stored from `a` upward, V[k] stands k bytes above `a` (43_index_memory.md R154). -/
theorem State.read_writeBytes_regBytes (s : State) (m : Memory) (a : Nat) {x k : RegIndex} (h : k.toNat ≤ x.toNat) :
    (m.writeBytes a (s.regBytes (moveCount x))).read (a + k.toNat) = s.reg k := by
  have hk : k.toNat < (s.regBytes (moveCount x)).length := by rw [s.regBytes_moveCount_length x]; omega
  rw [Memory.read_writeBytes_inside _ _ _ _ hk, State.regBytes_getElem _ _ _ hk k.isLt, BitVec.ofNat_toNat,
    BitVec.setWidth_eq]

/-- With V0..VX loaded from `a` upward, the registers up to X hold the bytes of memory and the others what they held
(43_index_memory.md R155). -/
theorem State.reg_setRegBytes_readBytes (s : State) (m : Memory) (a : Nat) (x k : RegIndex) :
    (s.setRegBytes (m.readBytes a (moveCount x))).reg k = if k.toNat ≤ x.toNat then m.read (a + k.toNat) else s.reg k := by
  simp only [State.reg_setRegBytes, Memory.readBytes_getElem, Memory.readBytes_length, dite_eq_ite, moveCount,
    Nat.lt_succ_iff]

/-! #### Block transfers -/

/-- Settles O42: inside its range check LD B stores the block of the three digits at I; division of bytes is that of
their numbers by definition. -/
theorem bcdStoresThreeDigits : Obligations.BcdStoresThreeDigits := by
  unfold Obligations.BcdStoresThreeDigits
  intro x s hin
  have hdigit (j : Nat) (hj : j < 3) :=
    Memory.read_writeBytes_inside s.memory s.i.toNat (bcdDigits (s.reg x)) j hj
  refine ⟨_, execLdB_inside x hin, ?hundreds, ?tens, ?ones, fun a ha => ?outside, fun _ => rfl, rfl, rfl,
    s.sameStackTimersDisplay_of_font (Memory.writeBytes_font _ _ _) _ _ _, rfl, rfl⟩
  case hundreds => exact congrArg BitVec.toNat (hdigit 0 (by decide))
  case tens => exact congrArg BitVec.toNat (hdigit 1 (by decide))
  case ones => exact congrArg BitVec.toNat (hdigit 2 (by decide))
  case outside => exact Memory.read_writeBytes_outside s.memory _ ha

/-- Settles O43: inside its range check LD [I] stores the block V0..VX at I, then moves I. -/
theorem storeRegistersCopiesToMemory : Obligations.StoreRegistersCopiesToMemory := by
  unfold Obligations.StoreRegistersCopiesToMemory
  refine fun x s hin => ⟨_, execStoreRegs_inside x hin, fun k hk => ?stored, fun a ha => ?outside, fun _ => rfl,
    indexAfterMove_eq s x, rfl, s.sameStackTimersDisplay_of_font (Memory.writeBytes_font _ _ _) _ _ _, rfl, rfl⟩
  case stored => exact s.read_writeBytes_regBytes s.memory s.i.toNat hk
  case outside => exact Memory.read_writeBytes_outside s.memory _ (by rwa [s.regBytes_moveCount_length x])

/-- Settles O44: inside its range check LD VX, [I] loads the block at I into V0..VX, then moves I. -/
theorem loadRegistersCopiesFromMemory : Obligations.LoadRegistersCopiesFromMemory := by
  unfold Obligations.LoadRegistersCopiesFromMemory
  exact fun x s hin => ⟨_, execLoadRegs_inside x hin, s.reg_setRegBytes_readBytes s.memory s.i.toNat x, fun _ => rfl,
    indexAfterMove_eq s x, rfl, s.sameStackTimersDisplay_of_font rfl _ _ _, rfl, rfl⟩

/-! #### Writes of I -/

/-- Settles O40: both meanings are one write of I, of NNN and of the glyph address. -/
theorem loadIndexAndGlyphAddress : Obligations.LoadIndexAndGlyphAddress := by
  unfold Obligations.LoadIndexAndGlyphAddress
  refine fun nnn x s => ⟨⟨_, rfl, zextAddr_toNat nnn, rfl, fun _ => rfl, fun _ => rfl, ?_, rfl, rfl⟩,
    _, rfl, glyphAddress_toNat _, rfl, fun _ => rfl, fun _ => rfl, ?_, rfl, rfl⟩
  all_goals exact s.sameStackTimersDisplay_of_font rfl _ _ _

/-- Settles O41: one write of I, then VF under the quirk; both take the old I and VX. -/
theorem addToIndexFlagsPassing0xFFF : Obligations.AddToIndexFlagsPassing0xFFF := by
  unfold Obligations.AddToIndexFlagsPassing0xFFF
  intro x s
  rw [← add_zextByte_eq_ofNat, ← flagByte_indexOverflow]
  refine ⟨_, rfl, State.setFlagIf_i _ _ _, fun k => State.reg_setFlagIf _ k _ _, ?pc, fun a => ?memory, ?frame, ?draw⟩
  case pc => simp
  case memory => simp
  case frame => exact State.setFlagIf_sameStackTimersDisplay (s.sameStackTimersDisplay_of_font rfl s.v _ s.pc) _ _
  case draw => exact ⟨State.setFlagIf_rnd _ _ _, State.setFlagIf_draws _ _ _⟩

end Sys2Proof.Machine

/-! ### The display: CLS and DRW, and what the draw flag says (44_display.md R170 to R173)

CLS and DRW write the display, the general registers and PC alone (`State.drawn_frame`). What a draw turns over is
`drawSprite_pixel` read through `SpriteCovers`; DRW with no rows and a second equal draw are then read off O47. -/

namespace Sys2Proof.Machine

/-! #### The draw flag over a run -/

/-- An operation other than AcknowledgeDraw leaves pixels and draw flag as they are, or ends with the flag set: Reset sets it,
and a Step changes the pixels only by an instruction that sets it (10_state.md R33). -/
theorem applyOp_display_cases {op : HostOp} {s t : State} (hop : op ≠ .acknowledgeDraw) (h : applyOp op s = .next t) :
    (t.fb = s.fb ∧ t.drawFlag = s.drawFlag) ∨ t.drawFlag = true := by
  cases op with
  | acknowledgeDraw => exact absurd rfl hop
  | reset q => cases h; exact .inr rfl
  | loadProgram bytes =>
    cases h
    have hfb : (loadProgram bytes s).2.fb = s.fb := by unfold loadProgram; split <;> rfl
    exact .inl ⟨hfb, loadProgram_drawFlag bytes s⟩
  | step trace b =>
    obtain ⟨_, rfl⟩ | ⟨-, _, -, hexec⟩ := step_runs_or_keeps (s := { s with rnd := b }) h
    · exact .inl ⟨rfl, rfl⟩
    · exact (exec_display_cases hexec).imp_right And.right
  | tick | setKeyState k pressed => cases h; exact .inl ⟨rfl, rfl⟩

/-- Settles O22: "a clear draw flag means the framebuffer of the start" is kept by each operation, since a flag that an operation
ends clear was clear before it; `runOps_preserves` carries it over the run. -/
theorem clearDrawFlagMeansUnchangedFramebuffer : Obligations.ClearDrawFlagMeansUnchangedFramebuffer := by
  unfold Obligations.ClearDrawFlagMeansUnchangedFramebuffer
  intro ops s t hops hrun
  refine runOps_preserves (P := fun u => u.drawFlag = false → u.fb = s.fb) (fun op hop u w hu hw hclear => ?_)
    (fun _ => rfl) hrun
  obtain ⟨hfb, hflag⟩ | hset := applyOp_display_cases (hops op hop) hw
  · exact hfb.trans (hu (hflag.symm.trans hclear))
  · exact absurd (hset.symm.trans hclear) (by decide)

/-! #### What the display instructions write -/

/-- Only the display, the general registers and PC may differ (44_display.md R170, R171). -/
def OnlyDisplayRegsAndPc (s t : State) : Prop :=
  SameMemory s t ∧ t.i = s.i ∧ SameStack s t ∧ SameTimers s t ∧ SameHostState s t ∧ SameDraw s t

theorem State.drawn_frame (s : State) (fb : Framebuffer) (drawFlag : Bool) (v : Vector Byte 16) (pc : Word) :
    OnlyDisplayRegsAndPc s { s with fb := fb, drawFlag := drawFlag, v := v, pc := pc } :=
  ⟨fun _ => rfl, rfl, ⟨rfl, fun _ => rfl⟩, ⟨rfl, rfl⟩, ⟨rfl, rfl, rfl, rfl⟩, rfl, rfl⟩

/-- Settles O46: CLS stores the clear framebuffer, sets the flag and advances; no register is written. -/
theorem clearDisplayZeroesEveryPixel : Obligations.ClearDisplayZeroesEveryPixel := by
  unfold Obligations.ClearDisplayZeroesEveryPixel
  exact fun s => ⟨_, rfl, Framebuffer.pixel_clear, rfl, rfl, fun _ => rfl, s.drawn_frame _ _ _ _⟩

/-! #### The pixels a draw turns over -/

theorem mem_drawPixels {s : State} {x y : RegIndex} {n : BitVec 4} {py : Fin 32} {px : Fin 64} :
    (py, px) ∈ drawPixels s x y n ↔ SpriteCovers s x y n py px := mem_spritePixels

theorem drawSprite_pixel_of_covers {s : State} {x y : RegIndex} {n : BitVec 4} {py : Fin 32} {px : Fin 64}
    (h : SpriteCovers s x y n py px) : (drawSprite s x y n).1.pixel py px = !s.fb.pixel py px := by
  rw [drawSprite_pixel, decide_eq_true (mem_drawPixels.2 h), Bool.xor_true]

theorem drawSprite_pixel_of_not_covers {s : State} {x y : RegIndex} {n : BitVec 4} {py : Fin 32} {px : Fin 64}
    (h : ¬ SpriteCovers s x y n py px) : (drawSprite s x y n).1.pixel py px = s.fb.pixel py px := by
  rw [drawSprite_pixel, decide_eq_false (mt mem_drawPixels.1 h), Bool.xor_false]

/-- A draw collides exactly if some pixel goes from 1 to 0: the set pixels under the sprite do, and no others (44_display.md
R171). -/
theorem drawSprite_collision_iff (s : State) (x y : RegIndex) (n : BitVec 4) :
    (drawSprite s x y n).2 = true ↔
      ∃ (py : Fin 32) (px : Fin 64), s.fb.pixel py px = true ∧ (drawSprite s x y n).1.pixel py px = false := by
  rw [drawSprite_collision]
  constructor
  · rintro ⟨⟨py, px⟩, hmem, hlit⟩
    exact ⟨py, px, hlit, by rw [drawSprite_pixel_of_covers (mem_drawPixels.1 hmem), hlit]; rfl⟩
  · rintro ⟨py, px, hlit, hdark⟩
    refine ⟨(py, px), by_contra fun hmem => ?_, hlit⟩
    rw [drawSprite_pixel_of_not_covers (mt mem_drawPixels.2 hmem), hlit] at hdark
    exact absurd hdark (by decide)

/-- Settles O47: inside its range check DRW stores the drawn framebuffer and then writes the collision to VF; both take the old
VX and VY. -/
theorem drawXorsTheSprite : Obligations.DrawXorsTheSprite := by
  unfold Obligations.DrawXorsTheSprite
  intro x y n s hin
  refine ⟨_, execDrw_inside x y n hin, fun py px => ⟨drawSprite_pixel_of_covers, drawSprite_pixel_of_not_covers⟩,
    fun hcoll => ?collision, fun hcoll => ?noCollision, fun k hk => ?regs, rfl, rfl, s.drawn_frame _ _ _ _⟩
  case collision =>
    rw [State.reg_advance, State.reg_setFlag, if_pos rfl, (drawSprite_collision_iff s x y n).2 hcoll, flagByte_true]
  case noCollision =>
    have hno := Bool.eq_false_iff.2 (mt (drawSprite_collision_iff s x y n).1 hcoll)
    rw [State.reg_advance, State.reg_setFlag, if_pos rfl, hno, flagByte_false]
  case regs => rw [State.reg_advance, State.reg_setFlag, if_neg hk, State.reg_setDisplay]

/-- A sprite of no rows covers nothing (44_display.md R171). -/
theorem not_spriteCovers_zero (s : State) (x y : RegIndex) (py : Fin 32) (px : Fin 64) :
    ¬ SpriteCovers s x y 0 py px :=
  fun ⟨r, hr, _⟩ => absurd hr (Nat.not_lt_zero r)

/-- Settles O48: O47 for a sprite that covers nothing, so no pixel changes and none goes from 1 to 0. -/
theorem drawOfNoRowsOnlySetsVfAndDrawFlag : Obligations.DrawOfNoRowsOnlySetsVfAndDrawFlag := by
  unfold Obligations.DrawOfNoRowsOnlySetsVfAndDrawFlag
  intro x y s
  obtain ⟨t, hexec, hpixel, -, hclear, hframe⟩ := drawXorsTheSprite x y 0 s (.inl rfl)
  have hsame (py : Fin 32) (px : Fin 64) : t.fb.pixel py px = s.fb.pixel py px :=
    (hpixel py px).2 (not_spriteCovers_zero s x y py px)
  refine ⟨t, hexec, hsame, hclear ?_, hframe⟩
  rintro ⟨py, px, hlit, hdark⟩
  rw [hsame, hlit] at hdark
  exact absurd hdark (by decide)

/-! #### Drawing twice -/

/-- A sprite covers the same pixels in states that share memory, I, VX and VY. -/
theorem spriteCovers_congr {s t : State} {x y : RegIndex} (hmem : SameMemory s t) (hi : t.i = s.i)
    (hx : t.reg x = s.reg x) (hy : t.reg y = s.reg y) (n : BitVec 4) (py : Fin 32) (px : Fin 64) :
    SpriteCovers t x y n py px ↔ SpriteCovers s x y n py px := by
  simp only [SpriteCovers, hi, hx, hy, hmem _]

/-- A byte that is not 0 has a 1 bit in one of the 8 columns. -/
theorem byte_ne_zero_iff {b : Byte} : b ≠ 0 ↔ ∃ c < 8, b.getLsbD (7 - c) = true := by
  constructor
  · contrapose!
    intro hbits
    refine BitVec.eq_of_getLsbD_eq fun j hj => ?_
    have hj7 : 7 - (7 - j) = j := by omega
    simpa [hj7] using hbits (7 - j) (by omega)
  · rintro ⟨c, -, hbit⟩ rfl
    simp at hbit

/-- A sprite covers some pixel exactly if one of its bytes is not 0. -/
theorem exists_spriteCovers_iff (s : State) (x y : RegIndex) (n : BitVec 4) :
    (∃ py px, SpriteCovers s x y n py px) ↔ ∃ r < n.toNat, s.memory.read (s.i.toNat + r) ≠ 0 := by
  constructor
  · rintro ⟨_, _, r, hr, c, hc, hbit, -⟩
    exact ⟨r, hr, byte_ne_zero_iff.2 ⟨c, hc, hbit⟩⟩
  · rintro ⟨r, hr, hne⟩
    obtain ⟨c, hc, hbit⟩ := byte_ne_zero_iff.1 hne
    exact ⟨⟨_, Nat.mod_lt _ (by decide)⟩, ⟨_, Nat.mod_lt _ (by decide)⟩, r, hr, c, hc, hbit, rfl, rfl⟩

/-- Some pixel goes from 0 to 1. -/
def TurnsAPixelOn (s t : State) : Prop :=
  ∃ (py : Fin 32) (px : Fin 64), s.fb.pixel py px = false ∧ t.fb.pixel py px = true

/-- Settles O49: X and Y are not F, so the second draw covers the pixels of the first (O47 twice) and turns each back; it collides
where the first turned a pixel on. That needs a covered pixel, and over dark pixels any covered pixel will do. -/
theorem drawTwiceRestoresTheFramebuffer : Obligations.DrawTwiceRestoresTheFramebuffer := by
  unfold Obligations.DrawTwiceRestoresTheFramebuffer
  intro x y n s hx hy hin
  obtain ⟨t, hfirst, hpixel, -, -, hregs, -, -, hmem, hi, -⟩ := drawXorsTheSprite x y n s hin
  have hin' : SpriteInMemory t n := by rw [SpriteInMemory, hi]; exact hin
  obtain ⟨u, hsecond, hpixel', hset, hclear, -⟩ := drawXorsTheSprite x y n t hin'
  have hcovers := spriteCovers_congr hmem hi (hregs x hx) (hregs y hy) n
  have hfb : u.fb = s.fb := Framebuffer.ext_pixel fun py px => by
    by_cases hc : SpriteCovers s x y n py px
    · rw [(hpixel' py px).1 ((hcovers py px).2 hc), (hpixel py px).1 hc, Bool.not_not]
    · rw [(hpixel' py px).2 (mt (hcovers py px).1 hc), (hpixel py px).2 hc]
  rw [hfb] at hset hclear
  have hon : TurnsAPixelOn s t → u.reg 0xF = 1 := fun ⟨py, px, h0, h1⟩ => hset ⟨py, px, h1, h0⟩
  have hoff : ¬ TurnsAPixelOn s t → u.reg 0xF = 0 := fun hno => hclear fun ⟨py, px, h1, h0⟩ => hno ⟨py, px, h0, h1⟩
  refine ⟨t, u, hfirst, hsecond, hfb, hon, hoff, fun hvf => ?byteOfVf, fun hbyte hdark => ?vfOfByte⟩
  case byteOfVf =>
    obtain ⟨py, px, h0, h1⟩ : TurnsAPixelOn s t :=
      by_contra fun hno => absurd (hvf.symm.trans (hoff hno)) (by decide)
    refine (exists_spriteCovers_iff s x y n).1 ⟨py, px, by_contra fun hc => ?_⟩
    rw [(hpixel py px).2 hc, h0] at h1
    exact absurd h1 (by decide)
  case vfOfByte =>
    obtain ⟨py, px, hc⟩ := (exists_spriteCovers_iff s x y n).2 hbyte
    have h0 := hdark py px hc
    exact hon ⟨py, px, h0, by rw [(hpixel py px).1 hc, h0]; rfl⟩

end Sys2Proof.Machine

/-! ### Key input and the timers (45_input_timers.md R180 to R185)

The key instructions take the shapes of other families: a skip (`State.skipIf_skipsWhen`) on the latch bit of VX's low nibble, and
one register write (`State.setReg_advance_writesReg`) of the key that `State.lowestKey_eq_some` finds. Setting a timer has a frame
of its own, `OnlyTimersAndPc`. -/

namespace Sys2Proof.Machine

/-! #### Keys -/

/-- Settles O32: both meanings are `skipIf`, on the latch bit and on its negation; the low nibble is VX mod 16. -/
theorem keySkipsReadTheLatch : Obligations.KeySkipsReadTheLatch := by
  unfold Obligations.KeySkipsReadTheLatch
  intro x s
  rw [← lowNibble_eq_ofNat]
  exact ⟨⟨_, rfl, State.skipIf_skipsWhen Iff.rfl⟩, _, rfl, State.skipIf_skipsWhen (Bool.not_eq_true' _).to_iff⟩

/-- The key search answers exactly the pressed key below which none is pressed (45_input_timers.md R182). -/
theorem State.lowestKey_eq_some {s : State} {k : KeyCode} :
    s.lowestKey = some k ↔ s.keyPressed k = true ∧ ∀ j : KeyCode, j < k → s.keyPressed j = false := by
  refine ⟨State.lowestKey_spec, fun ⟨hk, hbelow⟩ => ?_⟩
  cases hfound : s.lowestKey with
  | none => exact absurd hk (Bool.eq_false_iff.1 (State.lowestKey_eq_none.1 hfound k))
  | some j =>
    obtain ⟨hj, hbelow'⟩ := State.lowestKey_spec hfound
    have hjk : ¬ j < k := fun hlt => absurd hj (Bool.eq_false_iff.1 (hbelow j hlt))
    have hkj : ¬ k < j := fun hlt => absurd hk (Bool.eq_false_iff.1 (hbelow' k hlt))
    rw [BitVec.le_antisymm (BitVec.not_lt.1 hkj) (BitVec.not_lt.1 hjk)]

/-- Settles O50: the two branches of the key search, with no key found and with the lowest one, whose code goes to VX. -/
theorem keyWaitTakesTheLowestKey : Obligations.KeyWaitTakesTheLowestKey := by
  unfold Obligations.KeyWaitTakesTheLowestKey
  refine fun x s => ⟨fun hnone => execLdVxK_waits x (State.lowestKey_eq_none.2 hnone), fun k hk hbelow => ?pressed⟩
  case pressed =>
    rw [BitVec.ofNat_toNat]
    exact ⟨_, execLdVxK_pressed x (State.lowestKey_eq_some.2 ⟨hk, hbelow⟩), s.setReg_advance_writesReg x _⟩

/-! #### Timers -/

/-- Only the timers and PC may differ (45_input_timers.md R184, R185). -/
def OnlyTimersAndPc (s t : State) : Prop :=
  SameRegs s t ∧ SameMemory s t ∧ t.i = s.i ∧ SameStack s t ∧ SameDisplay s t ∧ SameHostState s t ∧ SameDraw s t

theorem State.setTimers_setPc_onlyTimersAndPc (s : State) (dt st : Byte) (pc : Word) :
    OnlyTimersAndPc s { s with dt := dt, st := st, pc := pc } :=
  ⟨fun _ => rfl, fun _ => rfl, rfl, ⟨rfl, fun _ => rfl⟩, ⟨rfl, fun _ _ => rfl⟩, ⟨rfl, rfl, rfl, rfl⟩, rfl, rfl⟩

/-- SoundActive says that ST is not 0 (60_exceptions.md R211). -/
theorem soundActive_iff {s : State} : soundActive s = true ↔ s.st ≠ 0 := bne_iff_ne

/-- Settles O51: one register write, and one write of each timer; `soundActive` reads the ST just written. -/
theorem timerTransfersMoveOneByte : Obligations.TimerTransfersMoveOneByte := by
  unfold Obligations.TimerTransfersMoveOneByte
  refine fun x s => ⟨⟨_, rfl, s.setReg_advance_writesReg x s.dt⟩, ⟨_, rfl, rfl, rfl, rfl, ?dtFrame⟩,
    _, rfl, rfl, soundActive_iff, rfl, rfl, ?stFrame⟩
  case dtFrame => exact s.setTimers_setPc_onlyTimersAndPc (s.reg x) s.st _
  case stFrame => exact s.setTimers_setPc_onlyTimersAndPc s.dt (s.reg x) _

end Sys2Proof.Machine

/-! ### Exceptions: the sticky halt, the order of the causes, the Fault port and Tick (60_exceptions.md R200 to R211)

What no operation but Reset may touch while a fault is recorded is `State.engine`; `applyOp_engine_of_fault` says each one keeps it,
and `runOps_preserves` carries that over a run. The order of the causes is that of `step_cases`, and of the checks inside `exec`
behind it. -/

namespace Sys2Proof.Machine

/-! #### A recorded fault stands until Reset -/

/-- The fault register and the engine's own state: what stands still while a fault is recorded (60_exceptions.md R204). -/
def State.engine (s : State) : FaultCode × Word × Vector Byte 16 × Word × Fin 17 × Vector Word 16 × Framebuffer :=
  (s.fault, s.pc, s.v, s.i, s.sp, s.stack, s.fb)

theorem State.engine_eq_iff {s t : State} :
    t.engine = s.engine ↔ t.fault = s.fault ∧ t.pc = s.pc ∧ t.v = s.v ∧ t.i = s.i ∧ t.sp = s.sp ∧ t.stack = s.stack ∧
      t.fb = s.fb := by
  simp only [State.engine, Prod.mk.injEq]

/-- LoadProgram writes memory at most: a program too long leaves the memory that stands there (20_memory.md R58). -/
theorem loadProgram_eq_setMemory (bytes : List Byte) (s : State) : ∃ m, (loadProgram bytes s).2 = s.setMemory m := by
  rcases Nat.lt_or_ge 0xE00 bytes.length with hlong | hfits
  · exact ⟨s.memory, congrArg Prod.snd (loadProgram_tooLarge s hlong)⟩
  · exact ⟨_, congrArg Prod.snd (loadProgram_fits s hfits)⟩

/-- Every operation but Reset, on a state with a fault recorded: a Step is halted, and the others write fields the engine does not
own (60_exceptions.md R204, R207). -/
theorem applyOp_engine_of_fault {op : HostOp} {s t : State} (hop : ∀ q, op ≠ .reset q) (hf : s.fault ≠ .none)
    (h : applyOp op s = .next t) : t.engine = s.engine := by
  cases op with
  | reset q => exact absurd rfl (hop q)
  | loadProgram bytes =>
    obtain ⟨m, hm⟩ := loadProgram_eq_setMemory bytes s
    cases h
    exact (congrArg State.engine hm).trans rfl
  | step trace b =>
    have hhalted : applyOp (.step trace b) s = .next { s with rnd := b } := step_halted (s := { s with rnd := b }) hf
    rw [hhalted] at h
    cases h; rfl
  | tick | setKeyState k pressed | acknowledgeDraw => cases h; rfl

/-- Settles O23: "the engine is that of the start" includes the recorded fault, so each operation finds the engine halted and keeps
it; `runOps_preserves` carries it over the run. -/
theorem faultStaysUntilReset : Obligations.FaultStaysUntilReset := by
  unfold Obligations.FaultStaysUntilReset
  intro ops s t hops hf hrun
  refine State.engine_eq_iff.1 (runOps_preserves (P := fun u => u.engine = s.engine) (fun op hop u w hu hw => ?_) rfl hrun)
  have hfault : u.fault = s.fault := (State.engine_eq_iff.1 hu).1
  exact (applyOp_engine_of_fault (hops op hop) (hfault ▸ hf) hw).trans hu

/-- Settles O10: the halted branch of the Step. -/
theorem haltedStepChangesNothing : Obligations.HaltedStepChangesNothing := by
  unfold Obligations.HaltedStepChangesNothing
  exact fun _ => step_halted

/-! #### The order of the causes -/

theorem State.firstFault_of_gt {s : State} (hpc : 0xFFE < s.pc.toNat) : s.firstFault = .memoryAddressOutOfRange :=
  if_pos hpc

theorem State.firstFault_of_unknown {s : State} {w : Word} {e : DecodeError} (hpc : s.pc.toNat ≤ 0xFFE)
    (hw : s.fetch = some w) (hd : decodeWord w = .error e) : s.firstFault = .unknownOpcode := by
  rw [State.fetch_of_le hpc] at hw
  cases hw
  rw [State.firstFault, if_neg (Nat.not_lt.2 hpc), hd]

theorem not_spriteInMemory_iff {s : State} {n : BitVec 4} :
    ¬ SpriteInMemory s n ↔ 0 < n.toNat ∧ 0xFFF < s.i.toNat + n.toNat - 1 := by
  unfold SpriteInMemory
  omega

/-- An instruction that the Step decoded records its own cause, or leaves the register clear (60_exceptions.md R200). -/
theorem exec_fault_eq_firstFault {i : Instr} {s t : State} {w : Word} (hf : s.fault = .none) (hpc : s.pc.toNat ≤ 0xFFE)
    (hw : s.fetch = some w) (hd : decodeWord w = .ok i) (h : exec i s = .next t) : t.fault = s.firstFault := by
  rw [State.fetch_of_le hpc] at hw
  cases hw
  rw [State.firstFault, if_neg (Nat.not_lt.2 hpc), hd]
  cases i with
  | call nnn =>
    obtain ⟨hfull, rfl⟩ | ⟨hfree, rfl⟩ := execCall_cases h
    · exact (if_pos hfull).symm
    · exact hf.trans (if_neg (Nat.ne_of_lt hfree)).symm
  | ret =>
    obtain ⟨hempty, rfl⟩ | ⟨hused, rfl⟩ := execRet_cases h
    · exact (if_pos hempty).symm
    · exact hf.trans (if_neg (Nat.ne_of_gt hused)).symm
  | drw x y n =>
    obtain ⟨hout, rfl⟩ | ⟨hin, rfl⟩ := execDrw_cases h
    · exact (if_pos (not_spriteInMemory_iff.1 hout)).symm
    · exact hf.trans (if_neg fun hout => not_spriteInMemory_iff.2 hout hin).symm
  | ldB x =>
    obtain ⟨hout, rfl⟩ | ⟨hin, rfl⟩ := execLdB_cases h
    · exact (if_pos hout).symm
    · exact hf.trans (if_neg (Nat.not_lt.2 hin)).symm
  | storeRegs x =>
    obtain ⟨hout, rfl⟩ | ⟨hin, rfl⟩ := execStoreRegs_cases h
    · exact (if_pos hout).symm
    · exact hf.trans (if_neg (Nat.not_lt.2 hin)).symm
  | loadRegs x =>
    obtain ⟨hout, rfl⟩ | ⟨hin, rfl⟩ := execLoadRegs_cases h
    · exact (if_pos hout).symm
    · exact hf.trans (if_neg (Nat.not_lt.2 hin)).symm
  | ldVxK x => obtain ⟨-, rfl⟩ | ⟨_, -, rfl⟩ := execLdVxK_cases h <;> exact hf
  | orReg x y | andReg x y | xorReg x y => cases h; simpa [writeLogicResult] using hf
  | addI x => cases h; simpa using hf
  | _ => cases h; exact hf

/-- Settles O12: the branches of a Step are the causes in R205's order, and the instruction's own check comes last. -/
theorem stepFaultIsTheFirstCause : Obligations.StepFaultIsTheFirstCause := by
  unfold Obligations.StepFaultIsTheFirstCause
  intro s hf
  obtain ⟨hhalted, -⟩ | ⟨-, hpc, hstep⟩ | ⟨-, hpc, w, e, hw, hd, hstep⟩ | ⟨-, hpc, w, i, hw, hd, hstep⟩ := step_cases s
  · exact absurd hf hhalted
  · exact ⟨_, hstep, (State.firstFault_of_gt hpc).symm⟩
  · exact ⟨_, hstep, (State.firstFault_of_unknown hpc hw hd).symm⟩
  · obtain ⟨t, ht⟩ := exec_answers i s
    exact ⟨t, hstep.trans ht, exec_fault_eq_firstFault hf hpc hw hd ht⟩

/-! #### The Fault port -/

theorem faultCodeBits_le_four (kind : FaultCode) : (faultCodeBits kind).toNat ≤ 4 := by
  cases kind <;> decide

/-- Settles O58: the port is the code of the recorded kind, so each clause is a row of `faultCodeBits`. -/
theorem faultPortGivesTheCode : Obligations.FaultPortGivesTheCode := by
  unfold Obligations.FaultPortGivesTheCode
  exact fun s => ⟨congrArg faultCodeBits, congrArg faultCodeBits, congrArg faultCodeBits, congrArg faultCodeBits,
    congrArg faultCodeBits, faultCodeBits_le_four s.fault⟩

/-! #### Ticks -/

/-- The truncated subtraction of numbers stops at 0, as the counter does (60_exceptions.md R210). -/
theorem countDown_toNat (b : Byte) : (countDown b).toNat = b.toNat - 1 := by
  unfold countDown
  split
  next hzero => rw [hzero]; rfl
  next hne => bv_omega

/-- A timer that each Tick counts down once is n lower after n Ticks, but not below 0 (60_exceptions.md R210). -/
theorem tick_iterate_toNat {timer : State → Byte} (htick : ∀ u, timer (tick u) = countDown (timer u)) (s : State) (n : Nat) :
    (timer (tick^[n] s)).toNat = (timer s).toNat - n := by
  induction n with
  | zero => rfl
  | succ n ih => rw [Function.iterate_succ_apply', htick, countDown_toNat, ih, Nat.sub_sub]

/-- Settles O56: `tick_iterate_toNat` for each timer; the sound is on while the ST it gives is not 0. -/
theorem ticksCountBothTimersToZero : Obligations.TicksCountBothTimersToZero := by
  unfold Obligations.TicksCountBothTimersToZero
  intro s n
  have hst : (tick^[n] s).st.toNat = s.st.toNat - n := tick_iterate_toNat (fun _ => rfl) s n
  refine ⟨rfl, tick_iterate_toNat (fun _ => rfl) s n, hst, ?sound⟩
  case sound =>
    rw [Bool.eq_iff_iff, soundActive_iff, decide_eq_true_iff]
    have hzero : (tick^[n] s).st = 0 ↔ (tick^[n] s).st.toNat = 0 := BitVec.toNat_inj.symm
    rw [ne_eq, hzero, hst]
    omega

end Sys2Proof.Machine

/-! ### Reset (70_reset_and_hazards.md R230)

`resetBlock` and `State.reset` are both `State.powerOn`, so each fact is said of the power-on state, whatever its FONT, quirks and
`rnd` input: `State.powerOn_inv` for the invariant, and a lemma below for what each field that is a table reads as. -/

namespace Sys2Proof.Machine

/-! #### What the power-on state holds -/

/-- The power-on memory lists no cell, so every address reads as its reset content (R230, D24, D25). -/
theorem State.powerOn_memory_read (font : Font) (q : Quirks) (rnd : Byte) (draws a : Nat) :
    (State.powerOn font q rnd draws).memory.read a = if h : a < 80 then font[a] else 0 := rfl

@[simp] theorem State.powerOn_reg (font : Font) (q : Quirks) (rnd : Byte) (draws : Nat) (k : RegIndex) :
    (State.powerOn font q rnd draws).reg k = 0 :=
  Vector.getElem_replicate k.isLt

theorem State.powerOn_stack_getElem (font : Font) (q : Quirks) (rnd : Byte) (draws : Nat) (j : Fin 16) :
    (State.powerOn font q rnd draws).stack[j] = 0 :=
  Vector.getElem_replicate j.isLt

@[simp] theorem State.powerOn_pixel (font : Font) (q : Quirks) (rnd : Byte) (draws : Nat) (y : Fin 32) (x : Fin 64) :
    (State.powerOn font q rnd draws).fb.pixel y x = false :=
  Framebuffer.pixel_clear y x

@[simp] theorem State.powerOn_keyPressed (font : Font) (q : Quirks) (rnd : Byte) (draws : Nat) (k : KeyCode) :
    (State.powerOn font q rnd draws).keyPressed k = false :=
  Vector.getElem_replicate k.isLt

/-! #### The statements about Reset -/

/-- Settles O14: both states are power-on states, and a memory that lists no cell is canonical. -/
theorem resetMeetsTheInvariant : Obligations.ResetMeetsTheInvariant := by
  unfold Obligations.ResetMeetsTheInvariant
  exact ⟨State.powerOn_inv _ _ _ _, fun _ _ => State.powerOn_inv _ _ _ _⟩

/-- Settles O55: the tables are read by the lemmas above, and every other field is the value that `State.powerOn` writes. -/
theorem resetPutsEveryPowerOnValue : Obligations.ResetPutsEveryPowerOnValue := by
  unfold Obligations.ResetPutsEveryPowerOnValue resetBlock
  intro q s
  refine ⟨fun a _ => State.powerOn_memory_read _ _ _ _ a, State.powerOn_reg _ _ _ _, rfl, rfl, rfl, ?stack, rfl, rfl, ?pixels,
    rfl, ?keys, rfl, rfl⟩
  case stack => exact State.powerOn_stack_getElem _ _ _ _
  case pixels => exact State.powerOn_pixel _ _ _ _
  case keys => exact State.powerOn_keyPressed _ _ _ _

end Sys2Proof.Machine
